-- ==== Sys2Proof/Word.lean ====
section
/-! DEFINITION. The widths of the block's values and the flag record (rules R4, R5, R103). -/

namespace Sys2Proof

/-- A byte, 8 bits, bit 0 least significant (R4, R5). -/
abbrev Byte := BitVec 8

/-- A 32-bit register, argument or value (R20, R76). -/
abbrev Word := BitVec 32

/-- The 33-bit byte counter `CNT` (R27). -/
abbrev Count := BitVec 33

/-- A command word: `op` in bits 35:32, `arg` in bits 31:0 (R76). -/
abbrev CmdWord := BitVec 36

/-- An event word: `kind` in bits 37:36, `code` in bits 35:32, `data` in bits 31:0 (R80). -/
abbrev EvtWord := BitVec 38

/-- The five identifier flags of `id_flags` (R103), in the order of the flags word (R82). -/
structure IdFlags where
  isCritical : Bool
  isPublic : Bool
  isReservedBitValid : Bool
  isSafeToCopy : Bool
  isValid : Bool
deriving DecidableEq, Repr, Inhabited

end Sys2Proof
end

