-- ==== Sys2Proof/Syntax.lean ====
section
/-! DEFINITION. The ten commands of the opcode map (rule R77), one constructor per row of spec/opcode_table.json. -/

namespace Sys2Proof

/-- A command. An operand holds exactly the bits rule R78 gives its form: none, one byte, or a 32-bit word. -/
inductive Instr where
  /-- `NOP` (R193). -/
  | nop
  /-- `ID_LOAD w`: four identifier bytes, byte 0 in bits 31:24 (R105). -/
  | idLoad (w : Word)
  /-- `CRC_START` (R125). -/
  | crcStart
  /-- `CRC_BYTE b` (R126). -/
  | crcByte (b : Byte)
  /-- `CRC_END` (R127). -/
  | crcEnd
  /-- `ENC_START L`: the payload length, unsigned (R143). -/
  | encStart (L : Word)
  /-- `ENC_BYTE b` (R145). -/
  | encByte (b : Byte)
  /-- `DEC_START` (R163). -/
  | decStart
  /-- `DEC_BYTE b` (R164). -/
  | decByte (b : Byte)
  /-- `DEC_END` (R168). -/
  | decEnd
deriving DecidableEq, Repr

end Sys2Proof
end

