-- ==== Sys2Proof/WellFormed.lean ====
section
/-! DEFINITION. Which words and which instructions are well formed (rules R78, R79). -/

namespace Sys2Proof

/-- The argument forms of rule R78. -/
inductive ArgForm where
  /-- `arg[31:0]` must be 0. -/
  | none
  /-- `arg[31:8]` must be 0. -/
  | byte
  /-- Every value is a defined encoding. -/
  | word
deriving DecidableEq, Repr

/-- The argument form of each opcode, no form for the reserved opcodes `0xA` to `0xF` (R77, R78). -/
def argFormOfOp : Nat → Option ArgForm
  | 0 => some .none
  | 1 => some .word
  | 2 => some .none
  | 3 => some .byte
  | 4 => some .none
  | 5 => some .word
  | 6 => some .byte
  | 7 => some .none
  | 8 => some .byte
  | 9 => some .none
  | _ => Option.none

/-- Whether an argument, as an unsigned number, meets its form's constraint (R78). -/
def ArgForm.admits (f : ArgForm) (arg : Nat) : Bool :=
  match f with
  | .none => arg == 0
  | .byte => arg < 256
  | .word => true

/-- "A word is a *defined encoding* exactly when its `op` is `0x0` to `0x9` and every bit that rule R78 says must be 0
is 0" (R79). Written over the word as a number, apart from the decoder. -/
def definedEncoding (w : CmdWord) : Bool :=
  match argFormOfOp (w.toNat / 2 ^ 32) with
  | some f => f.admits (w.toNat % 2 ^ 32)
  | Option.none => false

/-- The opcode of an instruction and its argument, as numbers (R77, R78). -/
def Instr.opArg : Instr → Nat × Nat
  | .nop => (0, 0)
  | .idLoad w => (1, w.toNat)
  | .crcStart => (2, 0)
  | .crcByte b => (3, b.toNat)
  | .crcEnd => (4, 0)
  | .encStart L => (5, L.toNat)
  | .encByte b => (6, b.toNat)
  | .decStart => (7, 0)
  | .decByte b => (8, b.toNat)
  | .decEnd => (9, 0)

/-- An instruction is well formed when its argument meets the form of its opcode. The operand types leave no other
value, so every instruction is (`Sys2Proof.Laws.wellFormed_true`); a WORD can be ill formed (`definedEncoding`). -/
def Instr.wellFormed (i : Instr) : Bool :=
  match argFormOfOp i.opArg.1 with
  | some f => f.admits i.opArg.2
  | Option.none => false

end Sys2Proof
end

