-- ==== Sys2Proof/Decode.lean ====
section
/-! DEFINITION. The decoder, total on every 36-bit word and rejecting by name, then the encoder and the opcode table
(rules R76 to R79, spec/opcode_table.json). -/

namespace Sys2Proof

/-- Why a word is no defined encoding (R79). The fault is the same for all: `ILLEGAL_CMD` (R192). -/
inductive IllegalWord where
  /-- `op` is `0xA` to `0xF`. -/
  | reservedOpcode
  /-- A command without argument whose `arg[31:0]` is not 0. -/
  | argNotZero
  /-- A byte command whose `arg[31:8]` is not 0. -/
  | argHighBitsNotZero
deriving DecidableEq, Repr

/-- `op`, bits 35:32 (R76). -/
def opOf (w : CmdWord) : BitVec 4 := w.extractLsb' 32 4

/-- `arg`, bits 31:0 (R76). -/
def argOf (w : CmdWord) : Word := w.extractLsb' 0 32

/-- A command without argument: `arg[31:0]` must be 0 (R78). -/
def decodeNone (i : Instr) (arg : Word) : Except IllegalWord Instr :=
  if arg = 0 then .ok i else .error .argNotZero

/-- A byte command: `arg[31:8]` must be 0, `arg[7:0]` is the byte (R78). -/
def decodeByte (mk : Byte → Instr) (arg : Word) : Except IllegalWord Instr :=
  if arg.extractLsb' 8 24 = 0 then .ok (mk (arg.extractLsb' 0 8)) else .error .argHighBitsNotZero

/-- The decoder: the opcode map of rule R77 with the argument forms of rule R78. -/
def decode (w : CmdWord) : Except IllegalWord Instr :=
  match (opOf w).toNat with
  | 0 => decodeNone .nop (argOf w)
  | 1 => .ok (.idLoad (argOf w))
  | 2 => decodeNone .crcStart (argOf w)
  | 3 => decodeByte .crcByte (argOf w)
  | 4 => decodeNone .crcEnd (argOf w)
  | 5 => .ok (.encStart (argOf w))
  | 6 => decodeByte .encByte (argOf w)
  | 7 => decodeNone .decStart (argOf w)
  | 8 => decodeByte .decByte (argOf w)
  | 9 => decodeNone .decEnd (argOf w)
  | _ => .error .reservedOpcode

/-- `op * 2^32 + arg` (R83). -/
def cmdWord (op : Nat) (arg : Word) : CmdWord := BitVec.ofNat 36 (op * 2 ^ 32 + arg.toNat)

/-- A byte as an argument, the bits above it 0 (R78). -/
def byteArg (b : Byte) : Word := b.setWidth 32

/-- The encoder (R77, R78). -/
def encode : Instr → CmdWord
  | .nop => cmdWord 0x0 0
  | .idLoad w => cmdWord 0x1 w
  | .crcStart => cmdWord 0x2 0
  | .crcByte b => cmdWord 0x3 (byteArg b)
  | .crcEnd => cmdWord 0x4 0
  | .encStart L => cmdWord 0x5 L
  | .encByte b => cmdWord 0x6 (byteArg b)
  | .decStart => cmdWord 0x7 0
  | .decByte b => cmdWord 0x8 (byteArg b)
  | .decEnd => cmdWord 0x9 0

/-- A row of spec/opcode_table.json: "a word `w` is that command exactly when `w and mask = match`" (R79). -/
structure OpcodeRow where
  mnemonic : String
  pattern : CmdWord
  mask : CmdWord
deriving DecidableEq, Repr

/-- The rows of spec/opcode_table.json, in its order. -/
def opcodeTable : List OpcodeRow :=
  [ ⟨"NOP", 0x000000000#36, 0xFFFFFFFFF#36⟩,
    ⟨"ID_LOAD", 0x100000000#36, 0xF00000000#36⟩,
    ⟨"CRC_START", 0x200000000#36, 0xFFFFFFFFF#36⟩,
    ⟨"CRC_BYTE", 0x300000000#36, 0xFFFFFFF00#36⟩,
    ⟨"CRC_END", 0x400000000#36, 0xFFFFFFFFF#36⟩,
    ⟨"ENC_START", 0x500000000#36, 0xF00000000#36⟩,
    ⟨"ENC_BYTE", 0x600000000#36, 0xFFFFFFF00#36⟩,
    ⟨"DEC_START", 0x700000000#36, 0xFFFFFFFFF#36⟩,
    ⟨"DEC_BYTE", 0x800000000#36, 0xFFFFFFF00#36⟩,
    ⟨"DEC_END", 0x900000000#36, 0xFFFFFFFFF#36⟩ ]

/-- Whether a word is the command of a row (R79). -/
def matchesRow (w : CmdWord) (r : OpcodeRow) : Bool := w &&& r.mask == r.pattern

/-- The mnemonic of an instruction, as the table spells it (R77). -/
def mnemonicOf : Instr → String
  | .nop => "NOP"
  | .idLoad _ => "ID_LOAD"
  | .crcStart => "CRC_START"
  | .crcByte _ => "CRC_BYTE"
  | .crcEnd => "CRC_END"
  | .encStart _ => "ENC_START"
  | .encByte _ => "ENC_BYTE"
  | .decStart => "DEC_START"
  | .decByte _ => "DEC_BYTE"
  | .decEnd => "DEC_END"

/-- The command word of a table word of `nbits` bits (36 bits are five whole bytes). A command word is handed over
whole on `cmd[35:0]` (R75): no byte order applies. None when a bit above bit 35 is set: no port carries it. -/
def tableWord (nbits w : Nat) : Option CmdWord :=
  if w % 2 ^ nbits < 2 ^ 36 then some (BitVec.ofNat 36 (w % 2 ^ nbits)) else none

/-- The instruction the decoder reads from a table word (host interface). -/
def decodeTableWord (nbits w : Nat) : Option Instr :=
  match tableWord nbits w with
  | some c => (decode c).toOption
  | none => none

end Sys2Proof
end

