-- ==== Sys2Proof/Config.lean ====
section
/-! DEFINITION. What an implementation fixes (the parameters of R4) and the values the spec leaves open. -/

namespace Sys2Proof

/-- `CRC_POLY_REFLECTED` (R4, R121; the spec marks it general knowledge; log entry 4). -/
def Config.crcPolyReflected : Word := 0xEDB88320#32

/-- `CRC_INIT` (R4, R122; log entry 4). -/
def Config.crcInit : Word := 0xFFFFFFFF#32

/-- `CRC_XOROUT` (R4, R122; log entry 4). -/
def Config.crcXorOut : Word := 0xFFFFFFFF#32

/-- FREE VALUE. `RESET_DROPS_PENDING_EVENTS` (R232, OPEN): whether the event that stands at this draw is lost when `rst`
is asserted while it is still pending. The spec does not say which (log entry 2). -/
opaque Config.resetDropsPendingEvent : Nat → Bool

/-- FREE VALUE. `id_flags` of a word that is not four letters: "`id_flags` is not defined when `letters_ok(w)` is
false" (R103; log entry 3). -/
opaque Config.undefinedIdFlags : Word → IdFlags

/-- FREE VALUE of the host software: `SIGNATURE`, 8 bytes, OPEN (R252, D38; log entry 7). -/
opaque Config.signature : Vector Byte 8

/-- FREE VALUE of the host software: the 4 letters of `TERMINAL_ID`, byte 0 first, each as its place in the 52 letters `A`
to `Z`, `a` to `z`; OPEN (R252, D38; log entry 7). -/
opaque Config.terminalLetters : Vector (Fin 52) 4

/-- FREE VALUE of the host software: a payload read as UTF-8, none when it is not valid UTF-8; "the source does not
define UTF-8 validity further and this spec does not either" (R261; log entry 8). -/
opaque Config.utf8Text : List Byte → Option String

end Sys2Proof
end

