-- ==== Sys2Proof/Machine/State.lean ====
section
/-! DEFINITION. The state of the block as plain data: the nine registers of rule R20 and its ports (R75, R80, R230). -/

namespace Sys2Proof.Machine

/-- `MODE`, 2 bits: the operation in progress (R21). -/
inductive Mode where
  /-- 0: no operation in progress. -/
  | idle
  /-- 1: a bare checksum operation. -/
  | crc
  /-- 2: a frame decode. -/
  | dec
  /-- 3: a frame encode. -/
  | enc
deriving DecidableEq, Repr

/-- `FAULT`, 2 bits: the sticky protocol fault. "Value 3 is never written" (R22), so no constructor stands for it. -/
inductive FaultCode where
  /-- 0: no fault. -/
  | noFault
  /-- 1: a word that is no defined encoding was presented. -/
  | illegalCmd
  /-- 2: a defined command was presented in a mode that does not allow it. -/
  | protocol
deriving DecidableEq, Repr

/-- The result codes of `DONE` and `ERR`, 4 bits (R200). Codes 6 to 9 belong to the host software; 10 to 15 are
unassigned and never written. -/
inductive ResultCode where
  /-- 0. -/
  | ok
  /-- 1, from `DEC_END`. -/
  | truncated
  /-- 2, from `DEC_END`. -/
  | lengthMismatch
  /-- 3, from `DEC_END` and `ENC_START`. -/
  | invalidIdentifier
  /-- 4, from `DEC_END`. -/
  | checksumMismatch
  /-- 5, from `ID_LOAD`. -/
  | invalidByte
  /-- 6, host software only. -/
  | invalidLength
  /-- 7, host software only. -/
  | signatureMismatch
  /-- 8, host software only. -/
  | utf8DecodeFailure
  /-- 9, host software only. -/
  | notFound
deriving DecidableEq, Repr

/-- An event (R80, R81). -/
inductive Event where
  /-- `PAY(b)`: the decoder has reached a payload byte; tentative until `DONE(OK)`. -/
  | pay (b : Byte)
  /-- `OUT(b)`: the encoder has produced the next byte of the frame. -/
  | out (b : Byte)
  /-- `DONE(code, val)`: an operation has ended. -/
  | done (code : ResultCode) (val : Word)
deriving DecidableEq, Repr

/-- A transaction the host completes on the block's ports (R75, R230, R266). -/
inductive Input where
  /-- A command word is accepted: `cmd_valid` and `cmd_ready` are both 1. -/
  | cmd (w : CmdWord)
  /-- `evt_ready` is 1: an event is taken if `evt_valid` is 1. -/
  | evtReady
  /-- `rst` is sampled 1. -/
  | rst
deriving DecidableEq, Repr

/-- The state: the nine registers (R20), then the ports, then the model's own fields. -/
structure State where
  /-- `MODE` (R21). -/
  mode : Mode
  /-- `FAULT` (R22). -/
  fault : FaultCode
  /-- `ERR` (R23). -/
  err : ResultCode
  /-- `IDR`, byte 0 in bits 31:24 (R24). -/
  idr : Word
  /-- `IDV` (R25). -/
  idv : Bool
  /-- `LEN` (R26). -/
  len : Word
  /-- `CNT` (R27). -/
  cnt : Count
  /-- `CRC`, before the final XOR (R28). -/
  crc : Word
  /-- `CKR` (R29). -/
  ckr : Word
  /-- Ports: the host's transactions still to come, in the order they complete, oldest first (R59, R75, R230). -/
  inputs : List Input
  /-- Ports: the events produced and not yet taken, oldest first (R58, R75, R232). -/
  pending : List Event
  /-- Model's own: the events the host has taken, oldest first (log entry 1). -/
  taken : List Event
  /-- Model's own: the counter the free value of R232 is drawn at (log entry 2). -/
  draws : Nat
deriving DecidableEq, Repr

/-- The state after reset: every register at the value of rule R35, the ports empty (R230, R233; log entries 1, 2). -/
def State.reset : State where
  mode := .idle
  fault := .noFault
  err := .ok
  idr := 0x00000000#32
  idv := false
  len := 0x00000000#32
  cnt := 0#33
  crc := 0xFFFFFFFF#32
  ckr := 0x00000000#32
  inputs := []
  pending := []
  taken := []
  draws := 0

/-- Why a step stops with a fault: it never does. The faults of the spec are values of the register `FAULT`, after which
the block goes on ignoring words (R190, R192): next states. No constructor, so no one raises one; nothing is unsafe. -/
inductive Fault where
deriving DecidableEq, Repr

/-- Why a step has no meaning. -/
inductive Refusal where
  /-- An instruction without a meaning, rejected by name in `exec`. No arm raises it: every instruction has its
  meaning. Safe. -/
  | notModelled (mnemonic : String)
deriving DecidableEq, Repr

end Sys2Proof.Machine
end

