-- ==== Sys2Proof/Machine/Operands.lean ====
section
/-! DEFINITION. Byte packings, byte views of a register, slices and the saturating count (rules R6 to R8, R24, R27). -/

namespace Sys2Proof.Machine

/-- Byte `i` of a 32-bit value, byte 0 in bits 31:24 (R24). -/
def wordByte (i : Nat) (w : Word) : Byte := w.extractLsb' (24 - 8 * i) 8

/-- `IDR[i] <- b`: byte `i` of a 32-bit value replaced, the other three kept (R24, R164). -/
def setWordByte (i : Nat) (b : Byte) (w : Word) : Word :=
  (w &&& ~~~(0xFF#32 <<< (24 - 8 * i))) ||| (b.setWidth 32 <<< (24 - 8 * i))

/-- `be32(v)`: most significant byte first (R7). -/
def be32 (v : Word) : List Byte := [wordByte 0 v, wordByte 1 v, wordByte 2 v, wordByte 3 v]

/-- `from_be32(b0, b1, b2, b3)` (R7). -/
def fromBe32 (b0 b1 b2 b3 : Byte) : Word :=
  BitVec.ofNat 32 (b0.toNat * 2 ^ 24 + b1.toNat * 2 ^ 16 + b2.toNat * 2 ^ 8 + b3.toNat)

/-- `from_be32` of the first four bytes of a sequence that has them. -/
def fromBe32List (s : List Byte) : Word :=
  fromBe32 (s.getD 0 0) (s.getD 1 0) (s.getD 2 0) (s.getD 3 0)

/-- `(v << 8)[31:0] or zext_32(b)`: the next byte of a big-endian field (R8, R164). -/
def shiftInByte (v : Word) (b : Byte) : Word := (v <<< 8) ||| b.setWidth 32

/-- `s[a..b)`, half-open (R6). -/
def slice (s : List Byte) (a b : Nat) : List Byte := (s.drop a).take (b - a)

/-- `sat33(n)`: `n` below `2^33 - 1`, else `2^33 - 1` (R8). -/
def sat33 (n : Nat) : Count :=
  if n < 2 ^ 33 - 1 then BitVec.ofNat 33 n else BitVec.ofNat 33 (2 ^ 33 - 1)

/-- `CNT <- sat33(CNT + 1)`: one more byte counted (R27). -/
def countByte (c : Count) : Count := sat33 (c.toNat + 1)

end Sys2Proof.Machine
end

