-- ==== Sys2Proof/Machine/Crc.lean ====
section
/-! DEFINITION. The checksum function (rules R121 to R123). -/

namespace Sys2Proof.Machine

/-- One iteration of `crc_step`: a logical right shift, and the polynomial when the bit shifted out is 1 (R121). -/
def crcBit (c : Word) : Word :=
  if c.getLsbD 0 then (c >>> 1) ^^^ Config.crcPolyReflected else c >>> 1

/-- `n` iterations, least significant bit first (R121). -/
def crcBits : Nat → Word → Word
  | 0, c => c
  | n + 1, c => crcBits n (crcBit c)

/-- `crc_step(c, b)`: the byte enters at the low end, then eight iterations (R121). -/
def crcStep (c : Word) (b : Byte) : Word := crcBits 8 (c ^^^ b.setWidth 32)

/-- `crc_final(c)` (R122). -/
def crcFinal (c : Word) : Word := c ^^^ Config.crcXorOut

/-- `fold(s)`: the register after the bytes of `s` (R123). -/
def crcFold (s : List Byte) : Word := s.foldl crcStep Config.crcInit

/-- `crc32(s)` (R123). -/
def crc32 (s : List Byte) : Word := crcFinal (crcFold s)

end Sys2Proof.Machine
end

