-- ==== Sys2Proof/Machine/Ops.lean ====
section
/-! DEFINITION. The shared operations: events, results, failures, faults, the tests before a command, reset and the
event channel (rules R190 to R192, R203, R204, R230 to R232). -/

namespace Sys2Proof.Machine

/-- `emit`: events appended to the stream, in order (R9, R58). -/
def emit (es : List Event) (s : State) : State := { s with pending := s.pending ++ es }

/-- `OUT` of each byte, in order (R81). -/
def outs (bs : List Byte) : List Event := bs.map Event.out

/-- `done(code, val)`: `ERR <- code`, then `DONE(code, val)` (R203). -/
def reportDone (c : ResultCode) (v : Word) (s : State) : State := emit [.done c v] { s with err := c }

/-- `raise X`: `done(X, 0)` and `MODE <- IDLE`, every other register kept: "the whole of trap entry" (R204). -/
def raiseFailure (c : ResultCode) (s : State) : State := { reportDone c 0 s with mode := .idle }

/-- `fault F`: `FAULT <- F` and nothing else (R192). -/
def takeFault (f : FaultCode) (s : State) : State := { s with fault := f }

/-- Which command is allowed in which mode (the table of R191). -/
def allowedIn : Instr → Mode → Bool
  | .nop, _ => true
  | .idLoad _, m => m == .idle
  | .crcStart, m => m == .idle
  | .crcByte _, m => m == .crc
  | .crcEnd, m => m == .crc
  | .encStart _, m => m == .idle
  | .encByte _, m => m == .enc
  | .decStart, m => m == .idle
  | .decByte _, m => m == .dec
  | .decEnd, m => m == .dec

/-- Tests 1, 3 and 4 of R190 for a defined command: a faulted block does nothing; a command out of sequence takes
`PROTOCOL`; else the command's own rule. -/
def guarded (i : Instr) (effect : State → State) (s : State) : State :=
  if s.fault ≠ .noFault then s
  else if allowedIn i s.mode then effect s
  else takeFault .protocol s

/-- Test 2 of R190: a word that is no defined encoding, on a block that is not faulted (R192). -/
def illegalWord (s : State) : State :=
  if s.fault ≠ .noFault then s else takeFault .illegalCmd s

/-- The event channel: the oldest pending event is taken, if there is one (R75). -/
def takeEvent (s : State) : State :=
  match s.pending with
  | [] => s
  | e :: es => { s with pending := es, taken := s.taken ++ [e] }

/-- The pending events a reset leaves to be delivered, one draw of the free value per event (R232; log entry 2). -/
def survivors : Nat → List Event → List Event
  | _, [] => []
  | n, e :: es =>
    if Config.resetDropsPendingEvent n then survivors (n + 1) es else e :: survivors (n + 1) es

/-- `rst` sampled 1: every register takes its reset value and no event is emitted; a pending event may be lost; an
event already taken stays taken; the host's later transactions are still to come (R230 to R232). -/
def applyReset (s : State) : State :=
  { State.reset with
    inputs := s.inputs
    pending := survivors s.draws s.pending
    taken := s.taken
    draws := s.draws + s.pending.length }

end Sys2Proof.Machine
end

