-- ==== Sys2Proof/Machine/Checksum.lean ====
section
/-! DEFINITION. The checksum unit: `CRC_START`, `CRC_BYTE`, `CRC_END` (rules R125 to R127). -/

namespace Sys2Proof.Machine

/-- The pseudocode of R125. -/
def crcStartEffect (s : State) : State := { s with crc := Config.crcInit, cnt := 0, mode := .crc }

/-- The pseudocode of R126. -/
def crcByteEffect (b : Byte) (s : State) : State :=
  { s with crc := crcStep s.crc b, cnt := countByte s.cnt }

/-- The pseudocode of R127. -/
def crcEndEffect (s : State) : State := { reportDone .ok (crcFinal s.crc) s with mode := .idle }

/-- `CRC_START` (R125). -/
def execCrcStart (s : State) : Host.Outcome State Fault Refusal :=
  .next (guarded .crcStart crcStartEffect s)

/-- `CRC_BYTE b` (R126). -/
def execCrcByte (b : Byte) (s : State) : Host.Outcome State Fault Refusal :=
  .next (guarded (.crcByte b) (crcByteEffect b) s)

/-- `CRC_END` (R127). -/
def execCrcEnd (s : State) : Host.Outcome State Fault Refusal :=
  .next (guarded .crcEnd crcEndEffect s)

end Sys2Proof.Machine
end

