-- ==== Sys2Proof/Machine/Flags.lean ====
section
/-! DEFINITION. The identifier tests and the flag decoder (rules R82, R101 to R104). -/

namespace Sys2Proof.Machine

/-- `is_letter(b)`: `0x41` to `0x5A` or `0x61` to `0x7A` (R101). -/
def isLetter (b : Byte) : Bool :=
  (0x41 ≤ b.toNat && b.toNat ≤ 0x5A) || (0x61 ≤ b.toNat && b.toNat ≤ 0x7A)

/-- `letters_ok(w)` (R102). -/
def lettersOk (w : Word) : Bool :=
  isLetter (wordByte 0 w) && isLetter (wordByte 1 w) && isLetter (wordByte 2 w) && isLetter (wordByte 3 w)

/-- The case bit, bit 5, of byte `i`: set for lower case (R72, R103). -/
def caseBit (i : Nat) (w : Word) : Bool := (wordByte i w).getLsbD 5

/-- `id_flags(w)` (R103); a free value where the spec does not define it, `letters_ok(w)` false (log entry 3). -/
def idFlags (w : Word) : IdFlags :=
  if lettersOk w then
    { isCritical := !caseBit 0 w
      isPublic := !caseBit 1 w
      isReservedBitValid := !caseBit 2 w
      isSafeToCopy := caseBit 3 w
      isValid := !caseBit 2 w }
  else Config.undefinedIdFlags w

/-- The flags word (R82), zero-extended to 32 bits. -/
def flagsWord (f : IdFlags) : Word :=
  BitVec.ofNat 32 (f.isCritical.toNat + 2 * f.isPublic.toNat + 4 * f.isReservedBitValid.toNat
    + 8 * f.isSafeToCopy.toNat + 16 * f.isValid.toNat)

/-- The five flag pins (R104): `id_flags(IDR)` when `IDV = 1`, all 0 when `IDV = 0`. -/
def flagPins (s : State) : IdFlags :=
  if s.idv then idFlags s.idr
  else
    { isCritical := false, isPublic := false, isReservedBitValid := false, isSafeToCopy := false, isValid := false }

end Sys2Proof.Machine
end

