-- ==== Sys2Proof/Machine/Decoder.lean ====
section
/-! DEFINITION. The frame decoder: `DEC_START`, `DEC_BYTE`, `DEC_END` (rules R163, R164, R168). -/

namespace Sys2Proof.Machine

/-- The pseudocode of R163. -/
def decStartEffect (s : State) : State :=
  { s with crc := Config.crcInit, cnt := 0, len := 0, ckr := 0, idr := 0, idv := false, mode := .dec }

/-- The pseudocode of R164: the byte is routed by its offset `CNT`; `8 + LEN` and `12 + LEN` do not wrap. -/
def decByteEffect (b : Byte) (s : State) : State :=
  let k := s.cnt.toNat
  let counted := { s with cnt := countByte s.cnt }
  if k < 4 then { counted with len := shiftInByte s.len b }
  else if k < 8 then { counted with idr := setWordByte (k - 4) b s.idr, crc := crcStep s.crc b }
  else if k < 8 + s.len.toNat then emit [.pay b] { counted with crc := crcStep s.crc b }
  else if k < 12 + s.len.toNat then { counted with ckr := shiftInByte s.ckr b }
  else counted

/-- The pseudocode of R168: the four failures in the source's order (R207), else the verdict `OK`. -/
def decEndEffect (s : State) : State :=
  if s.cnt.toNat < 12 then raiseFailure .truncated s
  else if s.cnt.toNat ≠ s.len.toNat + 12 then raiseFailure .lengthMismatch s
  else if ¬ lettersOk s.idr then raiseFailure .invalidIdentifier s
  else if s.ckr ≠ crcFinal s.crc then raiseFailure .checksumMismatch s
  else { reportDone .ok s.len { s with idv := true } with mode := .idle }

/-- `DEC_START` (R163). -/
def execDecStart (s : State) : Host.Outcome State Fault Refusal :=
  .next (guarded .decStart decStartEffect s)

/-- `DEC_BYTE b` (R164). -/
def execDecByte (b : Byte) (s : State) : Host.Outcome State Fault Refusal :=
  .next (guarded (.decByte b) (decByteEffect b) s)

/-- `DEC_END` (R168). -/
def execDecEnd (s : State) : Host.Outcome State Fault Refusal :=
  .next (guarded .decEnd decEndEffect s)

end Sys2Proof.Machine
end

