-- ==== Sys2Proof/Machine/Encoder.lean ====
section
/-! DEFINITION. The frame encoder: `ENC_START`, `ENC_BYTE` (rules R143, R145). -/

namespace Sys2Proof.Machine

/-- The end of a frame: the checksum's four bytes, `DONE(OK, k)`, `MODE <- IDLE` (R143, R145). -/
def finishFrame (s : State) : State :=
  { reportDone .ok (crcFinal s.crc) (emit (outs (be32 (crcFinal s.crc))) s) with mode := .idle }

/-- The pseudocode of R143: without an Identifier the failure `INVALID_IDENTIFIER`, else the first 8 bytes of the frame,
and all 12 when `L = 0`. -/
def encStartEffect (L : Word) (s : State) : State :=
  if s.idv then
    let begun := emit (outs (be32 L ++ be32 s.idr))
      { s with len := L, cnt := 0, crc := (be32 s.idr).foldl crcStep Config.crcInit }
    if L = 0 then finishFrame begun else { begun with mode := .enc }
  else raiseFailure .invalidIdentifier s

/-- The pseudocode of R145. `CNT` is stored saturated (R27), which the invariants of R34 make the plain `CNT + 1`
(log entry 6); the comparison with `LEN` is on unbounded naturals. -/
def encByteEffect (b : Byte) (s : State) : State :=
  let fed := emit [.out b] { s with crc := crcStep s.crc b, cnt := countByte s.cnt }
  if s.cnt.toNat + 1 = s.len.toNat then finishFrame fed else fed

/-- `ENC_START L` (R143). -/
def execEncStart (L : Word) (s : State) : Host.Outcome State Fault Refusal :=
  .next (guarded (.encStart L) (encStartEffect L) s)

/-- `ENC_BYTE b` (R145). -/
def execEncByte (b : Byte) (s : State) : Host.Outcome State Fault Refusal :=
  .next (guarded (.encByte b) (encByteEffect b) s)

end Sys2Proof.Machine
end

