-- ==== Sys2Proof/Machine/Identifier.lean ====
section
/-! DEFINITION. The identifier unit: `ID_LOAD` (rule R105). -/

namespace Sys2Proof.Machine

/-- The pseudocode of R105. -/
def idLoadEffect (w : Word) (s : State) : State :=
  if lettersOk w then reportDone .ok (flagsWord (idFlags w)) { s with idr := w, idv := true }
  else reportDone .invalidByte 0 { s with idr := w, idv := false }

/-- `ID_LOAD w` (R105). -/
def execIdLoad (w : Word) (s : State) : Host.Outcome State Fault Refusal :=
  .next (guarded (.idLoad w) (idLoadEffect w) s)

end Sys2Proof.Machine
end

