-- ==== Sys2Proof/Machine/System.lean ====
section
/-! DEFINITION. The meaning of `NOP` (rule R193). -/

namespace Sys2Proof.Machine

/-- `NOP`: no register is written, no event is emitted, in any mode (R193). -/
def execNop (s : State) : Host.Outcome State Fault Refusal := .next (guarded .nop id s)

end Sys2Proof.Machine
end

