-- ==== Sys2Proof/Machine/Dispatch.lean ====
section
/-! DEFINITION. One arm per constructor of `Instr` (rule R77). -/

namespace Sys2Proof.Machine

def exec (i : Instr) (s : State) : Host.Outcome State Fault Refusal :=
  match i with
  | .nop => Sys2Proof.Machine.execNop s
  | .idLoad w => Sys2Proof.Machine.execIdLoad w s
  | .crcStart => Sys2Proof.Machine.execCrcStart s
  | .crcByte b => Sys2Proof.Machine.execCrcByte b s
  | .crcEnd => Sys2Proof.Machine.execCrcEnd s
  | .encStart L => Sys2Proof.Machine.execEncStart L s
  | .encByte b => Sys2Proof.Machine.execEncByte b s
  | .decStart => Sys2Proof.Machine.execDecStart s
  | .decByte b => Sys2Proof.Machine.execDecByte b s
  | .decEnd => Sys2Proof.Machine.execDecEnd s

end Sys2Proof.Machine
end

