-- ==== Sys2Proof/Machine/Ports.lean ====
section
/-! DEFINITION. What one transaction on the ports does (rules R75, R190, R230), and the event word (R80). -/

namespace Sys2Proof.Machine

/-- An accepted command word (R190): test 2, then the command, whose meaning makes tests 1, 3 and 4. A faulted block
ignores an illegal word too (`illegalWord`). -/
def acceptWord (w : CmdWord) (s : State) : Host.Outcome State Fault Refusal :=
  match decode w with
  | .ok i => exec i s
  | .error _ => .next (illegalWord s)

/-- One transaction of the host. With none, the block waits and holds its state (R212, R240). -/
def nextTransaction (s : State) : Host.Outcome State Fault Refusal :=
  match s.inputs with
  | [] => .next s
  | .cmd w :: rest => acceptWord w { s with inputs := rest }
  | .evtReady :: rest => .next (takeEvent { s with inputs := rest })
  | .rst :: rest => .next (applyReset { s with inputs := rest })

/-- A command word handed over as the host's next transaction. -/
def handOver (w : CmdWord) (s : State) : State := { s with inputs := .cmd w :: s.inputs }

/-- `MODE` as the `mode` pins show it (R21). -/
def modeBits : Mode → BitVec 2
  | .idle => 0
  | .crc => 1
  | .dec => 2
  | .enc => 3

/-- `FAULT` as the `fault` pins show it (R22). -/
def faultBits : FaultCode → BitVec 2
  | .noFault => 0
  | .illegalCmd => 1
  | .protocol => 2

/-- The number of a result code (R200). -/
def resultBits : ResultCode → BitVec 4
  | .ok => 0
  | .truncated => 1
  | .lengthMismatch => 2
  | .invalidIdentifier => 3
  | .checksumMismatch => 4
  | .invalidByte => 5
  | .invalidLength => 6
  | .signatureMismatch => 7
  | .utf8DecodeFailure => 8
  | .notFound => 9

/-- An event on the `evt` pins: `kind` 37:36, `code` 35:32, `data` 31:0 (R80). -/
def eventWord : Event → EvtWord
  | .pay b => (0#2 ++ 0#4 : BitVec 6) ++ (b.setWidth 32)
  | .out b => (1#2 ++ 0#4 : BitVec 6) ++ (b.setWidth 32)
  | .done c v => (2#2 ++ resultBits c : BitVec 6) ++ v

end Sys2Proof.Machine
end

