-- ==== Sys2Proof/Machine/Step.lean ====
section
/-! DEFINITION. One step, and where the next command word stands (rules R10, R61, R190). -/

namespace Sys2Proof.Machine

/-- One step: the host's next transaction. -/
def step (s : State) : Host.Outcome State Fault Refusal := nextTransaction s

/-- The table word handed over as the host's next command (R61: the block fetches nothing, each command is handed over
at the moment it is to execute; log entry 9). -/
def State.withFetchWord (s : State) (nbits w : Nat) : State :=
  match tableWord nbits w with
  | some c => handOver c s
  | none => s

end Sys2Proof.Machine
end

