-- ==== Sys2Proof/Machine/Codec.lean ====
section
/-! DEFINITION. The transaction-level functions of rule R11 on byte sequences: the identifier parse (R102, R105),
`serialize` (R140) and `parse` (R160). -/

namespace Sys2Proof.Machine

/-- The source's `parse_from_bytes(4 raw bytes)`: an Identifier, or `InvalidByte` (R102, R105). -/
def parseIdentifier (w : Word) : Except ResultCode Word :=
  if lettersOk w then .ok w else .error .invalidByte

/-- "a payload longer than `2^32 - 1` bytes cannot be serialized" (C2, R141). -/
def serializable (p : List Byte) : Bool := p.length < 2 ^ 32

/-- `serialize(id, p)`, for a payload that is `serializable` (R140); the spec gives it no value for any other. -/
def serialize (id : Word) (p : List Byte) : List Byte :=
  be32 (BitVec.ofNat 32 p.length) ++ be32 id ++ p ++ be32 (crc32 (be32 id ++ p))

/-- `parse(s)`: the source's eight steps, in their order; `L + 12` does not wrap (R160). -/
def parse (s : List Byte) : Except ResultCode (Word × List Byte) :=
  if s.length < 12 then .error .truncated
  else
    let L := (fromBe32List (slice s 0 4)).toNat
    if s.length ≠ L + 12 then .error .lengthMismatch
    else
      let id := fromBe32List (slice s 4 8)
      if ¬ lettersOk id then .error .invalidIdentifier
      else
        let p := slice s 8 (8 + L)
        let ck := fromBe32List (slice s (8 + L) (12 + L))
        if ck ≠ crc32 (be32 id ++ p) then .error .checksumMismatch
        else .ok (id, p)

end Sys2Proof.Machine
end

