-- ==== Sys2Proof/Machine/HostSoftware.lean ====
section
/-! DEFINITION. The host software the source describes around the block, as pure functions (rules R250 to R265). No step
of the machine calls any of them: "nothing in this file is hardware" (80_host.md, R3). The chunk functions are the pure
ones of rule R11, which the block computes. -/

namespace Sys2Proof.Machine

/-- A Chunk: "(identifier: 4 letters, payload: byte sequence)"; no length and no checksum is stored (R250). -/
structure Chunk where
  identifier : Word
  payload : List Byte
deriving DecidableEq, Repr

/-- The letter at a place of the 52 letters, upper case first (R101). -/
def letterByte (n : Fin 52) : Byte := BitVec.ofNat 8 (if n.val < 26 then 0x41 + n.val else 0x61 + (n.val - 26))

/-- `TERMINAL_ID`: any 4 letters (R252; log entry 7). -/
def terminalId : Word := fromBe32List (Config.terminalLetters.toList.map letterByte)

/-- The terminal chunk: the terminal identifier "and carrying no payload" (R252). -/
def terminalChunk : Chunk := ⟨terminalId, []⟩

/-- A finished container: "the last chunk in the sequence is a designated terminal chunk" (R252). Parse, append and remove
do not enforce it (C5). -/
def finished (cs : List Chunk) : Bool := cs.getLast? == some terminalChunk

/-- Why a call of the host software fails. -/
inductive HostFailure where
  /-- A failure of rule R200. -/
  | result (code : ResultCode)
  /-- A payload that no frame can carry (C2). -/
  | payloadTooLong
deriving DecidableEq, Repr

/-- An ASCII letter among the characters (R101, R251). -/
def isLetterChar (c : Char) : Bool := c.toNat < 128 && isLetter (BitVec.ofNat 8 c.toNat)

/-- `parse_from_text`: the length test first, in characters (R251, D39). -/
def parseFromText (t : String) : Except HostFailure Word :=
  match t.toList with
  | [a, b, c, d] =>
    if [a, b, c, d].all isLetterChar then
      .ok (fromBe32List ([a, b, c, d].map fun x => BitVec.ofNat 8 x.toNat))
    else .error (.result .invalidByte)
  | _ => .error (.result .invalidLength)

/-- How many bytes of `rest` the host hands the decoder: `min(|rest|, 12 + L)`, or all of them when the length field is
cut short (R242, R254, D40). -/
def sliceLength (rest : List Byte) : Nat :=
  if 4 ≤ rest.length then min rest.length (12 + (fromBe32List rest).toNat) else rest.length

/-- The chunk loop, on fuel `|rest|`: every slice takes at least one byte (R254); the first failure ends it (R255). -/
def parseChunks : Nat → List Byte → Except HostFailure (List Chunk)
  | 0, _ => .ok []
  | fuel + 1, rest =>
    if rest = [] then .ok []
    else
      match parse (rest.take (sliceLength rest)) with
      | .error c => .error (.result c)
      | .ok (id, p) =>
        if id = terminalId then .ok [⟨id, p⟩]
        else
          match parseChunks fuel (rest.drop (sliceLength rest)) with
          | .error e => .error e
          | .ok cs => .ok (⟨id, p⟩ :: cs)

/-- Container `parse_from_bytes`: the signature, then the chunks (R253 to R255). -/
def parseContainer (bytes : List Byte) : Except HostFailure (List Chunk) :=
  if bytes.take 8 = Config.signature.toList then parseChunks (bytes.drop 8).length (bytes.drop 8)
  else .error (.result .signatureMismatch)

/-- `find_by_identifier`: the first chunk whose identifier is byte-exactly `id` (R256). -/
def findByIdentifier (id : Word) (cs : List Chunk) : Option Chunk := cs.find? (·.identifier == id)

/-- `append`: immediately before the terminal chunk, or at the end when there is none (R257; log entry 10). -/
def appendChunk (c : Chunk) : List Chunk → List Chunk
  | [] => [c]
  | d :: ds => if d.identifier = terminalId then c :: d :: ds else d :: appendChunk c ds

/-- `remove_by_identifier`: the first matching chunk is taken out (R258). -/
def removeByIdentifier (id : Word) (cs : List Chunk) : Except HostFailure (Chunk × List Chunk) :=
  match findByIdentifier id cs with
  | some c => .ok (c, cs.eraseP (·.identifier == id))
  | none => .error (.result .notFound)

/-- Container `serialize`: the signature, then each chunk's frame in sequence order (R259). -/
def serializeContainer (cs : List Chunk) : Except HostFailure (List Byte) :=
  if cs.all (fun c => serializable c.payload) then
    .ok (Config.signature.toList ++ cs.flatMap fun c => serialize c.identifier c.payload)
  else .error .payloadTooLong

/-- `payload_as_text` (R261; log entry 8). -/
def payloadAsText (c : Chunk) : Except HostFailure String :=
  match Config.utf8Text c.payload with
  | some t => .ok t
  | none => .error (.result .utf8DecodeFailure)

/-- The entry point `encode` (R262). -/
def hostEncode (bytes : List Byte) (text : String) (payload : List Byte) : Except HostFailure (List Byte) := do
  let cs ← parseContainer bytes
  let id ← parseFromText text
  serializeContainer (appendChunk ⟨id, payload⟩ cs)

/-- The entry point `decode`: the container parse first (R263). -/
def hostDecode (bytes : List Byte) (text : String) : Except HostFailure Chunk := do
  let cs ← parseContainer bytes
  let id ← parseFromText text
  match findByIdentifier id cs with
  | some c => .ok c
  | none => .error (.result .notFound)

/-- The entry point `remove` (R264). -/
def hostRemove (bytes : List Byte) (text : String) : Except HostFailure (List Byte × Chunk) := do
  let cs ← parseContainer bytes
  let id ← parseFromText text
  let (c, rest) ← removeByIdentifier id cs
  let out ← serializeContainer rest
  .ok (out, c)

/-- The entry point `inspect` (R265). -/
def hostInspect (bytes : List Byte) : Except HostFailure (List Chunk) := parseContainer bytes

end Sys2Proof.Machine
end

