-- ==== Sys2Proof/Machine/Macros.lean ====
section
/-! DEFINITION. The pseudo-commands of rule R84: the command sequences of `IDENT`, `CRC32`, `ENCODE` and `DECODE`. -/

namespace Sys2Proof.Machine

/-- `IDENT t` (R84). -/
def identMacro (t : Word) : List Instr := [.idLoad t]

/-- `CRC32 s` (R84). -/
def crc32Macro (s : List Byte) : List Instr := .crcStart :: (s.map .crcByte ++ [.crcEnd])

/-- `ENCODE t, p` (R84). -/
def encodeMacro (t : Word) (p : List Byte) : List Instr :=
  .idLoad t :: .encStart (BitVec.ofNat 32 p.length) :: p.map .encByte

/-- `DECODE s` (R84). -/
def decodeMacro (s : List Byte) : List Instr := .decStart :: (s.map .decByte ++ [.decEnd])

/-- Commands handed over one after the other, each as its command word. -/
def handedOver (is : List Instr) : List Input := is.map fun i => .cmd (encode i)

end Sys2Proof.Machine
end

