-- ==== Sys2Proof/Machine/Pins.lean ====
section
/-! DEFINITION. The status pins: each a pure function of the state (rules R30, R31, R104). -/

namespace Sys2Proof.Machine

/-- The read-only pins of rule R30, and the event channel's outputs of rule R75. -/
structure Pins where
  mode : BitVec 2
  fault : BitVec 2
  err : BitVec 4
  idr : Word
  idv : Bool
  len : Word
  cnt : Count
  crcVal : Word
  ckr : Word
  fCritical : Bool
  fPublic : Bool
  fReservedOk : Bool
  fSafeToCopy : Bool
  fValid : Bool
  /-- `evt` while `evt_valid` is 1: the oldest event not yet taken; none while nothing is pending. -/
  evt : Option EvtWord
deriving DecidableEq, Repr

/-- The pins a state shows (R30). -/
def pinsOf (s : State) : Pins where
  mode := modeBits s.mode
  fault := faultBits s.fault
  err := resultBits s.err
  idr := s.idr
  idv := s.idv
  len := s.len
  cnt := s.cnt
  crcVal := crcFinal s.crc
  ckr := s.ckr
  fCritical := (flagPins s).isCritical
  fPublic := (flagPins s).isPublic
  fReservedOk := (flagPins s).isReservedBitValid
  fSafeToCopy := (flagPins s).isSafeToCopy
  fValid := (flagPins s).isValid
  evt := s.pending.head?.map eventWord

end Sys2Proof.Machine
end

