-- ==== Sys2Proof/Safety.lean ====
section
/-! DEFINITION. What counts as a good run, and the terms claims are stated in (rules R34, R169, R170, R191, R195, R236). -/

namespace Sys2Proof.Safety

open Sys2Proof.Machine

/-- "the sequence is exhausted and the state has `MODE = IDLE` and `FAULT = 0`" (R195). -/
def EndedWell (s : State) : Prop := s.inputs = [] ∧ s.mode = .idle ∧ s.fault = .noFault

/-- `n` steps of the machine. Every step answers a next state, so a run does too. -/
def runFor (n : Nat) (s : State) : Host.Outcome State Fault Refusal := Host.Core.run Sys2Proof.core n s

/-- The invariants of R34 that are about a state alone: items 1, 2 and 4, and the codes the block never reports (R200). -/
structure Inv (s : State) : Prop where
  /-- Item 1: `IDV = 1` implies all four bytes of `IDR` are letters. -/
  idv_letters : s.idv = true → lettersOk s.idr = true
  /-- Item 2: `MODE = ENC` implies `IDV = 1`, `LEN >= 1` and `CNT < LEN`. -/
  enc_unfinished : s.mode = .enc → s.idv = true ∧ 1 ≤ s.len.toNat ∧ s.cnt.toNat < s.len.toNat
  /-- Item 4: `MODE = DEC` implies `IDV = 0`. -/
  dec_no_identifier : s.mode = .dec → s.idv = false
  /-- "The block never emits a code above 5" (R200), so `ERR` holds none. -/
  err_code : (resultBits s.err).toNat ≤ 5

/-- A command that the table of R191 does not allow in a mode, written out apart from the model's table. -/
def OutOfSequence (i : Instr) (m : Mode) : Prop :=
  match i with
  | .nop => False
  | .idLoad _ | .crcStart | .encStart _ | .decStart => m ≠ .idle
  | .crcByte _ | .crcEnd => m ≠ .crc
  | .encByte _ => m ≠ .enc
  | .decByte _ | .decEnd => m ≠ .dec

/-- Every accepted word of a kind takes `ILLEGAL_CMD` on a block that is not faulted: `FAULT` is written, nothing else, no
event (R79, R192). -/
def TakesIllegalCmd (bad : CmdWord → Prop) : Prop :=
  ∀ (w : CmdWord) (s : State) (rest : List Input), bad w → s.inputs = .cmd w :: rest → s.fault = .noFault →
    step s = .next { s with inputs := rest, fault := .illegalCmd }

/-- A command takes `PROTOCOL` outside one mode, on a block that is not faulted: `FAULT` is written, nothing else, no
event (R191, R192). -/
def TakesProtocolOutside (i : Instr) (m : Mode) : Prop :=
  ∀ s : State, s.fault = .noFault → s.mode ≠ m → exec i s = .next { s with fault := .protocol }

/-- The numbers of the result codes, written out from R200 apart from the model's `resultBits`. -/
def codeNumber : ResultCode → Nat
  | .ok => 0
  | .truncated => 1
  | .lengthMismatch => 2
  | .invalidIdentifier => 3
  | .checksumMismatch => 4
  | .invalidByte => 5
  | .invalidLength => 6
  | .signatureMismatch => 7
  | .utf8DecodeFailure => 8
  | .notFound => 9

/-- Whether an event is a `DONE`. -/
def isDone : Event → Bool
  | .done _ _ => true
  | _ => false

/-- The verdict of R236: "the pair (`DONE` code, the `PAY` bytes if and only if the code is `OK`)", of the events of one
decode. -/
def decodeObservation (es : List Event) : Option (ResultCode × Option (List Byte)) :=
  match es.getLast? with
  | some (.done .ok _) => some (.ok, some (es.filterMap fun | .pay b => some b | _ => none))
  | some (.done c _) => some (c, none)
  | _ => none

/-- `parse(s)` as a verdict of R236. -/
def parseObservation (s : List Byte) : ResultCode × Option (List Byte) :=
  match parse s with
  | .ok (_, p) => (.ok, some p)
  | .error c => (c, none)

/-- The bytes given, as a big-endian number (R167, R170). -/
def beNumber (s : List Byte) : Nat := s.foldl (fun n b => 256 * n + b.toNat) 0

/-- The length field of a slice that has one (R170). -/
def sliceLen (s : List Byte) : Nat := beNumber (s.take 4)

/-- One bit of one byte of a sequence flipped (R169). -/
def flipBit (s : List Byte) (offset bit : Nat) : List Byte :=
  s.modify offset fun b => b ^^^ (1#8 <<< bit)

/-- The registers of a state, without its ports (R20). -/
def SameRegisters (s t : State) : Prop :=
  t.mode = s.mode ∧ t.fault = s.fault ∧ t.err = s.err ∧ t.idr = s.idr ∧ t.idv = s.idv ∧ t.len = s.len
    ∧ t.cnt = s.cnt ∧ t.crc = s.crc ∧ t.ckr = s.ckr

/-- What the host is left with when the chunk sequence of a container is well formed for a parse: identifiers of four
letters, payloads a frame can carry, and the terminal identifier on no chunk but the last (R250, R252, C2). -/
def ParsableChunks : List Chunk → Prop
  | [] => True
  | [c] => lettersOk c.identifier = true ∧ serializable c.payload = true
  | c :: d :: cs =>
    lettersOk c.identifier = true ∧ serializable c.payload = true ∧ c.identifier ≠ terminalId
      ∧ ParsableChunks (d :: cs)

end Sys2Proof.Safety
end

