-- ==== Sys2Proof/Certificates/Slice0/Obligations.lean ====
section
/-! DEFINITION. The statements for the provers, each citing the rule of spec/ it formalises. -/

open Sys2Proof Sys2Proof.Machine Sys2Proof.Safety

/-! ### Encoding, dispatch and the ports -/

/-- A few command words, written out from R77 and R78, decode to the commands they stand for (30_encoding.md). -/
def Obligations.SampleWordsDecode : Prop :=
  decode 0x000000000#36 = .ok .nop ∧
  decode 0x152755374#36 = .ok (.idLoad 0x52755374#32) ∧
  decode 0x200000000#36 = .ok .crcStart ∧
  decode 0x300000061#36 = .ok (.crcByte 0x61#8) ∧
  decode 0x400000000#36 = .ok .crcEnd ∧
  decode 0x50000002A#36 = .ok (.encStart 42#32) ∧
  decode 0x600000021#36 = .ok (.encByte 0x21#8) ∧
  decode 0x700000000#36 = .ok .decStart ∧
  decode 0x8000000FE#36 = .ok (.decByte 0xFE#8) ∧
  decode 0x900000000#36 = .ok .decEnd ∧
  decode 0xA00000000#36 = .error .reservedOpcode ∧
  decode 0x000000001#36 = .error .argNotZero ∧
  decode 0x300000100#36 = .error .argHighBitsNotZero

/-- Decoding and encoding are inverse to each other: no bit of an encoding is dropped, and every word that is a command
is the encoding of that command (30_encoding.md, section 2). -/
def Obligations.DecodeEncodeAgree : Prop :=
  (∀ i : Instr, i.wellFormed = true → decode (encode i) = .ok i) ∧
  (∀ (w : CmdWord) (i : Instr), decode w = .ok i → encode i = w)

/-- R79: the defined encodings are those of R78, each row of the opcode table holds of exactly its command's words, the
rows are disjoint, a word that is no defined encoding takes `ILLEGAL_CMD`, and the all-zero word is `NOP`. -/
def Obligations.DefinedEncodingsAndIllegalWords : Prop :=
  (∀ w : CmdWord, (∃ i, decode w = .ok i) ↔ definedEncoding w = true) ∧
  (∀ w : CmdWord, ∀ r ∈ opcodeTable, w &&& r.mask = r.pattern ↔ ∃ i, decode w = .ok i ∧ mnemonicOf i = r.mnemonic) ∧
  (∀ w : CmdWord, (opcodeTable.filter (matchesRow w)).length = if definedEncoding w then 1 else 0) ∧
  TakesIllegalCmd (fun w => definedEncoding w = false) ∧
  decode 0#36 = .ok .nop

/-- A step runs the decoded command: when the next transaction hands over a word that decodes to a well-formed
instruction, the step is that instruction's `exec` on the state less that transaction; so it is of a word placed by
`withFetchWord` (44_system.md, section 1, test 4; 20_memory.md, section 5; where the next word stands is log entry 9). -/
def Obligations.StepRunsTheDecodedCommand : Prop :=
  (∀ (s : State) (w : CmdWord) (rest : List Input) (i : Instr), s.inputs = .cmd w :: rest → decode w = .ok i →
    i.wellFormed = true → step s = exec i { s with inputs := rest }) ∧
  (∀ (s : State) (w : CmdWord) (i : Instr), decode w = .ok i → i.wellFormed = true →
    step (s.withFetchWord 40 w.toNat) = exec i s)

/-- R190: the four tests, in their order, on an accepted word. Each case gives the step whole, and every word in every
state falls in one of them. -/
def Obligations.DispatchTestsInOrder : Prop :=
  ∀ (s : State) (w : CmdWord) (rest : List Input), s.inputs = .cmd w :: rest →
    (s.fault ≠ .noFault → step s = .next { s with inputs := rest }) ∧
    (s.fault = .noFault → (¬ ∃ i, decode w = .ok i) → step s = .next { s with inputs := rest, fault := .illegalCmd }) ∧
    (∀ i, s.fault = .noFault → decode w = .ok i → OutOfSequence i s.mode →
      step s = .next { s with inputs := rest, fault := .protocol }) ∧
    (∀ i, s.fault = .noFault → decode w = .ok i → ¬ OutOfSequence i s.mode →
      ∃ t, step s = .next t ∧ exec i { s with inputs := rest } = .next t ∧ t.fault = .noFault)

/-- R191: a command in a mode its row does not allow takes `PROTOCOL` and has no other effect; in a mode its row allows
it takes no fault. -/
def Obligations.CommandAllowedOnlyInItsModes : Prop :=
  ∀ (i : Instr) (s : State), s.fault = .noFault →
    (OutOfSequence i s.mode → exec i s = .next { s with fault := .protocol }) ∧
    (¬ OutOfSequence i s.mode → ∃ t, exec i s = .next t ∧ t.fault = .noFault)

/-- R192: a fault is taken by an accepted word, writes `FAULT` and nothing else and emits no event; from then on, until
`rst`, every step leaves every register as it is and emits nothing. -/
def Obligations.FaultFreezesUntilReset : Prop :=
  (∀ s t : State, step s = .next t → s.fault = .noFault → t.fault ≠ .noFault →
    ∃ w rest, s.inputs = .cmd w :: rest ∧ t = { s with inputs := rest, fault := t.fault }) ∧
  (∀ s t : State, step s = .next t → s.fault ≠ .noFault → (¬ ∃ rest, s.inputs = .rst :: rest) →
    SameRegisters s t ∧ t.taken ++ t.pending = s.taken ++ s.pending)

/-- With no transaction the block holds its state; taking an event changes no register, takes the oldest pending event and
keeps the others in order (60_exceptions.md, section 5; 20_memory.md, section 5; 30_encoding.md, section 2). The ports as
lists, and the record of the events taken, are log entry 1. -/
def Obligations.WaitingAndTakingEvents : Prop :=
  (∀ s : State, s.inputs = [] → step s = .next s) ∧
  (∀ (s : State) (rest : List Input), s.inputs = .evtReady :: rest → s.pending = [] →
    step s = .next { s with inputs := rest }) ∧
  (∀ (s : State) (rest : List Input) (e : Event) (es : List Event), s.inputs = .evtReady :: rest →
    s.pending = e :: es → step s = .next { s with inputs := rest, pending := es, taken := s.taken ++ [e] })

/-- `rst` leaves the reset state whatever the state was, accepts no command, emits no event, and is the only thing that
clears `FAULT` (70_reset_and_hazards.md, section 1). Three clauses are the model's: the transactions still to come and the
events taken are kept (log entry 1), and the pending events it keeps are a sublist, in order (which it loses is open, log
entry 2). -/
def Obligations.ResetRestoresEveryRegister : Prop :=
  (∀ (s : State) (rest : List Input), s.inputs = .rst :: rest → ∃ t, step s = .next t ∧
    t.mode = .idle ∧ t.fault = .noFault ∧ t.err = .ok ∧ t.idr = 0#32 ∧ t.idv = false ∧ t.len = 0#32 ∧ t.cnt = 0#33
      ∧ t.crc = 0xFFFFFFFF#32 ∧ t.ckr = 0#32 ∧ t.inputs = rest ∧ t.taken = s.taken
      ∧ t.pending.Sublist s.pending) ∧
  (∀ s t : State, step s = .next t → s.fault ≠ .noFault → t.fault = .noFault → ∃ rest, s.inputs = .rst :: rest)

/-- R35: the value of every register after reset and the pins it shows. -/
def Obligations.ResetValuesAndPins : Prop :=
  State.reset.mode = .idle ∧ State.reset.fault = .noFault ∧ State.reset.err = .ok ∧ State.reset.idr = 0#32
    ∧ State.reset.idv = false ∧ State.reset.len = 0#32 ∧ State.reset.cnt = 0#33 ∧ State.reset.crc = 0xFFFFFFFF#32
    ∧ State.reset.ckr = 0#32 ∧
  (pinsOf State.reset).mode = 0#2 ∧ (pinsOf State.reset).fault = 0#2 ∧ (pinsOf State.reset).err = 0#4
    ∧ (pinsOf State.reset).idr = 0#32 ∧ (pinsOf State.reset).idv = false ∧ (pinsOf State.reset).len = 0#32
    ∧ (pinsOf State.reset).cnt = 0#33 ∧ (pinsOf State.reset).crcVal = 0#32 ∧ (pinsOf State.reset).ckr = 0#32
    ∧ (pinsOf State.reset).fCritical = false ∧ (pinsOf State.reset).fPublic = false
    ∧ (pinsOf State.reset).fReservedOk = false ∧ (pinsOf State.reset).fSafeToCopy = false
    ∧ (pinsOf State.reset).fValid = false

/-! ### The ten commands: encoding, effect with its frame, faults -/

/-- R193: `NOP` is the all-zero word, changes nothing in any mode, faulted or not; with an argument it is no `NOP`. -/
def Obligations.NopDoesNothing : Prop :=
  encode .nop = 0x000000000#36 ∧
  (∀ s : State, exec .nop s = .next s) ∧
  TakesIllegalCmd (fun w => w.toNat / 2 ^ 32 = 0 ∧ w.toNat % 2 ^ 32 ≠ 0)

/-- R105: `ID_LOAD w`. The flags word is written out from R82 and R103 over bits 29, 21, 13 and 5 of `w`, the case bits
of bytes 0 to 3. -/
def Obligations.IdLoadParsesAnIdentifier : Prop :=
  (∀ w, (encode (.idLoad w)).toNat = 0x100000000 + w.toNat) ∧
  (∀ (w : Word) (s : State), s.fault = .noFault → s.mode = .idle → lettersOk w = true →
    exec (.idLoad w) s = .next { s with
      idr := w, idv := true, err := .ok
      pending := s.pending ++ [.done .ok (BitVec.ofNat 32
        ((!w.getLsbD 29).toNat + 2 * (!w.getLsbD 21).toNat + 4 * (!w.getLsbD 13).toNat + 8 * (w.getLsbD 5).toNat
          + 16 * (!w.getLsbD 13).toNat))] }) ∧
  (∀ (w : Word) (s : State), s.fault = .noFault → s.mode = .idle → lettersOk w = false →
    exec (.idLoad w) s = .next { s with
      idr := w, idv := false, err := .invalidByte, pending := s.pending ++ [.done .invalidByte 0] }) ∧
  (∀ w, TakesProtocolOutside (.idLoad w) .idle)

/-- R125: `CRC_START`. -/
def Obligations.CrcStartBeginsAChecksum : Prop :=
  encode .crcStart = 0x200000000#36 ∧
  (∀ s : State, s.fault = .noFault → s.mode = .idle →
    exec .crcStart s = .next { s with crc := 0xFFFFFFFF#32, cnt := 0#33, mode := .crc }) ∧
  TakesProtocolOutside .crcStart .idle ∧
  TakesIllegalCmd (fun w => w.toNat / 2 ^ 32 = 2 ∧ w.toNat % 2 ^ 32 ≠ 0)

/-- R126: `CRC_BYTE b`. -/
def Obligations.CrcByteFeedsOneByte : Prop :=
  (∀ b, (encode (.crcByte b)).toNat = 0x300000000 + b.toNat) ∧
  (∀ (b : Byte) (s : State), s.fault = .noFault → s.mode = .crc →
    exec (.crcByte b) s = .next { s with
      crc := crcStep s.crc b, cnt := BitVec.ofNat 33 (min (s.cnt.toNat + 1) (2 ^ 33 - 1)) }) ∧
  (∀ b, TakesProtocolOutside (.crcByte b) .crc) ∧
  TakesIllegalCmd (fun w => w.toNat / 2 ^ 32 = 3 ∧ 256 ≤ w.toNat % 2 ^ 32)

/-- R127: `CRC_END`. -/
def Obligations.CrcEndReportsTheChecksum : Prop :=
  encode .crcEnd = 0x400000000#36 ∧
  (∀ s : State, s.fault = .noFault → s.mode = .crc →
    exec .crcEnd s = .next { s with
      mode := .idle, err := .ok, pending := s.pending ++ [.done .ok (s.crc ^^^ 0xFFFFFFFF#32)] }) ∧
  TakesProtocolOutside .crcEnd .crc ∧
  TakesIllegalCmd (fun w => w.toNat / 2 ^ 32 = 4 ∧ w.toNat % 2 ^ 32 ≠ 0)

/-- R143: `ENC_START L`, without an Identifier, with `L > 0`, and with `L = 0`. -/
def Obligations.EncStartBeginsAFrame : Prop :=
  (∀ L, (encode (.encStart L)).toNat = 0x500000000 + L.toNat) ∧
  (∀ (L : Word) (s : State), s.fault = .noFault → s.mode = .idle → s.idv = false →
    exec (.encStart L) s = .next { s with
      err := .invalidIdentifier, pending := s.pending ++ [.done .invalidIdentifier 0] }) ∧
  (∀ (L : Word) (s : State) (b0 b1 b2 b3 : Byte) (c : Word), s.fault = .noFault → s.mode = .idle → s.idv = true →
    b0 = s.idr.extractLsb' 24 8 → b1 = s.idr.extractLsb' 16 8 → b2 = s.idr.extractLsb' 8 8 →
    b3 = s.idr.extractLsb' 0 8 → c = crcStep (crcStep (crcStep (crcStep 0xFFFFFFFF#32 b0) b1) b2) b3 →
    (L ≠ 0 → exec (.encStart L) s = .next { s with
      len := L, cnt := 0#33, crc := c, mode := .enc
      pending := s.pending ++ [.out (L.extractLsb' 24 8), .out (L.extractLsb' 16 8), .out (L.extractLsb' 8 8),
        .out (L.extractLsb' 0 8), .out b0, .out b1, .out b2, .out b3] }) ∧
    (∀ k : Word, L = 0 → k = c ^^^ 0xFFFFFFFF#32 → exec (.encStart L) s = .next { s with
      len := 0#32, cnt := 0#33, crc := c, err := .ok
      pending := s.pending ++ [.out 0#8, .out 0#8, .out 0#8, .out 0#8, .out b0, .out b1, .out b2, .out b3,
        .out (k.extractLsb' 24 8), .out (k.extractLsb' 16 8), .out (k.extractLsb' 8 8), .out (k.extractLsb' 0 8),
        .done .ok k] })) ∧
  (∀ L, TakesProtocolOutside (.encStart L) .idle)

/-- R145: `ENC_BYTE b`, before the last byte and on it. The invariant of R34 item 2 is the premise the rule itself names
for "no saturation". -/
def Obligations.EncByteEmitsTheByte : Prop :=
  (∀ b, (encode (.encByte b)).toNat = 0x600000000 + b.toNat) ∧
  (∀ (b : Byte) (s : State), s.fault = .noFault → s.mode = .enc → Inv s → s.cnt.toNat + 1 ≠ s.len.toNat →
    exec (.encByte b) s = .next { s with
      crc := crcStep s.crc b, cnt := s.cnt + 1#33, pending := s.pending ++ [.out b] }) ∧
  (∀ (b : Byte) (s : State) (k : Word), s.fault = .noFault → s.mode = .enc → Inv s →
    s.cnt.toNat + 1 = s.len.toNat → k = crcStep s.crc b ^^^ 0xFFFFFFFF#32 →
    exec (.encByte b) s = .next { s with
      crc := crcStep s.crc b, cnt := s.cnt + 1#33, err := .ok, mode := .idle
      pending := s.pending ++ [.out b, .out (k.extractLsb' 24 8), .out (k.extractLsb' 16 8), .out (k.extractLsb' 8 8),
        .out (k.extractLsb' 0 8), .done .ok k] }) ∧
  (∀ b, TakesProtocolOutside (.encByte b) .enc) ∧
  TakesIllegalCmd (fun w => w.toNat / 2 ^ 32 = 6 ∧ 256 ≤ w.toNat % 2 ^ 32)

/-- R163: `DEC_START`. -/
def Obligations.DecStartBeginsADecode : Prop :=
  encode .decStart = 0x700000000#36 ∧
  (∀ s : State, s.fault = .noFault → s.mode = .idle →
    exec .decStart s = .next { s with
      crc := 0xFFFFFFFF#32, cnt := 0#33, len := 0#32, ckr := 0#32, idr := 0#32, idv := false, mode := .dec }) ∧
  TakesProtocolOutside .decStart .idle ∧
  TakesIllegalCmd (fun w => w.toNat / 2 ^ 32 = 7 ∧ w.toNat % 2 ^ 32 ≠ 0)

/-- R164: `DEC_BYTE b` routes the byte by its offset `k = CNT`; the five regions exclude each other. -/
def Obligations.DecByteRoutesByOffset : Prop :=
  (∀ b, (encode (.decByte b)).toNat = 0x800000000 + b.toNat) ∧
  (∀ (b : Byte) (s : State) (k : Nat) (n : Count), s.fault = .noFault → s.mode = .dec → k = s.cnt.toNat →
    n = BitVec.ofNat 33 (min (k + 1) (2 ^ 33 - 1)) →
    (k < 4 → exec (.decByte b) s = .next { s with
      cnt := n, len := BitVec.ofNat 32 (256 * s.len.toNat + b.toNat) }) ∧
    (4 ≤ k → k < 8 → ∃ v : Word, exec (.decByte b) s = .next { s with cnt := n, idr := v, crc := crcStep s.crc b } ∧
      ∀ j < 4, v.extractLsb' (24 - 8 * j) 8 = if j = k - 4 then b else s.idr.extractLsb' (24 - 8 * j) 8) ∧
    (8 ≤ k → k < 8 + s.len.toNat → exec (.decByte b) s = .next { s with
      cnt := n, crc := crcStep s.crc b, pending := s.pending ++ [.pay b] }) ∧
    (8 + s.len.toNat ≤ k → k < 12 + s.len.toNat → exec (.decByte b) s = .next { s with
      cnt := n, ckr := BitVec.ofNat 32 (256 * s.ckr.toNat + b.toNat) }) ∧
    (12 + s.len.toNat ≤ k → exec (.decByte b) s = .next { s with cnt := n })) ∧
  (∀ b, TakesProtocolOutside (.decByte b) .dec) ∧
  TakesIllegalCmd (fun w => w.toNat / 2 ^ 32 = 8 ∧ 256 ≤ w.toNat % 2 ^ 32)

/-- R168: `DEC_END` gives the verdict, the first failure of the source's order or `OK`; on a failure `IDV` is left as it
is, on `OK` it is set. -/
def Obligations.DecEndGivesTheVerdict : Prop :=
  encode .decEnd = 0x900000000#36 ∧
  (∀ s : State, s.fault = .noFault → s.mode = .dec →
    (s.cnt.toNat < 12 → exec .decEnd s = .next { s with
      mode := .idle, err := .truncated, pending := s.pending ++ [.done .truncated 0] }) ∧
    (12 ≤ s.cnt.toNat → s.cnt.toNat ≠ s.len.toNat + 12 → exec .decEnd s = .next { s with
      mode := .idle, err := .lengthMismatch, pending := s.pending ++ [.done .lengthMismatch 0] }) ∧
    (s.cnt.toNat = s.len.toNat + 12 → lettersOk s.idr = false → exec .decEnd s = .next { s with
      mode := .idle, err := .invalidIdentifier, pending := s.pending ++ [.done .invalidIdentifier 0] }) ∧
    (s.cnt.toNat = s.len.toNat + 12 → lettersOk s.idr = true → s.ckr ≠ s.crc ^^^ 0xFFFFFFFF#32 →
      exec .decEnd s = .next { s with
        mode := .idle, err := .checksumMismatch, pending := s.pending ++ [.done .checksumMismatch 0] }) ∧
    (s.cnt.toNat = s.len.toNat + 12 → lettersOk s.idr = true → s.ckr = s.crc ^^^ 0xFFFFFFFF#32 →
      exec .decEnd s = .next { s with
        mode := .idle, err := .ok, idv := true, pending := s.pending ++ [.done .ok s.len] })) ∧
  TakesProtocolOutside .decEnd .dec ∧
  TakesIllegalCmd (fun w => w.toNat / 2 ^ 32 = 9 ∧ w.toNat % 2 ^ 32 ≠ 0)

/-! ### Whole-machine rules -/

/-- Which command may change which register, and that no command touches the host's side of the ports: the writers'
summary of 10_state.md, section 7, which the spec marks as derived. -/
def Obligations.OnlyWritersChangeARegister : Prop :=
  ∀ (i : Instr) (s t : State), exec i s = .next t →
    t.inputs = s.inputs ∧ t.taken = s.taken ∧ t.draws = s.draws ∧ (∃ es, t.pending = s.pending ++ es) ∧
    (t.mode ≠ s.mode → i = .crcStart ∨ i = .crcEnd ∨ (∃ L, i = .encStart L) ∨ (∃ b, i = .encByte b) ∨ i = .decStart
      ∨ i = .decEnd) ∧
    (t.err ≠ s.err → (∃ w, i = .idLoad w) ∨ i = .crcEnd ∨ (∃ L, i = .encStart L) ∨ (∃ b, i = .encByte b)
      ∨ i = .decEnd) ∧
    (t.idr ≠ s.idr → (∃ w, i = .idLoad w) ∨ i = .decStart ∨ (∃ b, i = .decByte b ∧ 4 ≤ s.cnt.toNat
      ∧ s.cnt.toNat < 8)) ∧
    (t.idv ≠ s.idv → (∃ w, i = .idLoad w) ∨ i = .decStart ∨ i = .decEnd) ∧
    (t.len ≠ s.len → (∃ L, i = .encStart L ∧ s.idv = true) ∨ i = .decStart
      ∨ (∃ b, i = .decByte b ∧ s.cnt.toNat < 4)) ∧
    (t.cnt ≠ s.cnt → i = .crcStart ∨ (∃ b, i = .crcByte b) ∨ (∃ L, i = .encStart L ∧ s.idv = true)
      ∨ (∃ b, i = .encByte b) ∨ i = .decStart ∨ (∃ b, i = .decByte b)) ∧
    (t.crc ≠ s.crc → i = .crcStart ∨ (∃ b, i = .crcByte b) ∨ (∃ L, i = .encStart L ∧ s.idv = true)
      ∨ (∃ b, i = .encByte b) ∨ i = .decStart
      ∨ (∃ b, i = .decByte b ∧ 4 ≤ s.cnt.toNat ∧ s.cnt.toNat < 8 + s.len.toNat)) ∧
    (t.ckr ≠ s.ckr → i = .decStart
      ∨ (∃ b, i = .decByte b ∧ 8 + s.len.toNat ≤ s.cnt.toNat ∧ s.cnt.toNat < 12 + s.len.toNat)) ∧
    (t.fault ≠ s.fault → s.fault = .noFault ∧ t = { s with fault := .protocol })

/-- The complete list of `MODE` changes of a step (44_system.md, section 3, which the spec marks as derived). -/
def Obligations.ModeChangesOnlyAsListed : Prop :=
  ∀ s t : State, step s = .next t → t.mode ≠ s.mode →
    (t.mode = .idle ∧ ∃ rest, s.inputs = .rst :: rest) ∨
    (∃ (w : CmdWord) (rest : List Input) (i : Instr), s.inputs = .cmd w :: rest ∧ decode w = .ok i ∧ s.fault = .noFault ∧
      ((i = .crcStart ∧ s.mode = .idle ∧ t.mode = .crc) ∨
       (i = .crcEnd ∧ s.mode = .crc ∧ t.mode = .idle) ∨
       ((∃ L, i = .encStart L ∧ L ≠ 0) ∧ s.idv = true ∧ s.mode = .idle ∧ t.mode = .enc) ∨
       ((∃ b, i = .encByte b) ∧ s.cnt.toNat + 1 = s.len.toNat ∧ s.mode = .enc ∧ t.mode = .idle) ∨
       (i = .decStart ∧ s.mode = .idle ∧ t.mode = .dec) ∨
       (i = .decEnd ∧ s.mode = .dec ∧ t.mode = .idle)))

/-- R203: a command either emits no `DONE` and leaves `ERR`, or emits exactly one, as its last event, with the code it
writes to `ERR`, and the operation is over. -/
def Obligations.DoneIsLastAndSetsErr : Prop :=
  ∀ (i : Instr) (s t : State), exec i s = .next t →
    (t.err = s.err ∧ ∃ es, t.pending = s.pending ++ es ∧ ∀ e ∈ es, isDone e = false) ∨
    (∃ es c v, t.pending = s.pending ++ es ++ [.done c v] ∧ (∀ e ∈ es, isDone e = false) ∧ t.err = c ∧ t.mode = .idle
      ∧ t.fault = .noFault)

/-- The table of causes of 60_exceptions.md, section 1, over the registers: the cause of each failure a
`DONE` reports and the command that reports it; `val` is 0; no other code is reported by any command. -/
def Obligations.FailureCodesHaveTheirCauses : Prop :=
  ∀ (i : Instr) (s t : State) (es : List Event) (c : ResultCode) (v : Word), exec i s = .next t →
    t.pending = s.pending ++ es ++ [.done c v] → c ≠ .ok →
    v = 0 ∧ t.pending = s.pending ++ [.done c v] ∧
    match c with
    | .truncated => i = .decEnd ∧ s.cnt.toNat < 12
    | .lengthMismatch => i = .decEnd ∧ 12 ≤ s.cnt.toNat ∧ s.cnt.toNat ≠ s.len.toNat + 12
    | .invalidIdentifier =>
      (i = .decEnd ∧ s.cnt.toNat = s.len.toNat + 12 ∧ lettersOk s.idr = false) ∨ (∃ L, i = .encStart L ∧ s.idv = false)
    | .checksumMismatch =>
      i = .decEnd ∧ s.cnt.toNat = s.len.toNat + 12 ∧ lettersOk s.idr = true ∧ s.ckr ≠ s.crc ^^^ 0xFFFFFFFF#32
    | .invalidByte => ∃ w, i = .idLoad w ∧ lettersOk w = false
    | _ => False

/-- Every step but a reset keeps the event stream, the events taken and then those pending, and only adds to its end
(20_memory.md, section 4; the record of the events taken is log entry 1, what a reset loses is open, log entry 2). -/
def Obligations.EventStreamOnlyGrows : Prop :=
  ∀ s t : State, step s = .next t → (¬ ∃ rest, s.inputs = .rst :: rest) →
    (∃ es, t.taken ++ t.pending = s.taken ++ s.pending ++ es) ∧ s.taken <+: t.taken

/-- `step` is total and every transaction is one step: as many steps as transactions exhaust them (00_scope.md, section 5;
70_reset_and_hazards.md, section 4). The spec says so of accepted commands; that an event handshake and a reset are one
step each too (log entry 5), and that a step with no transaction waits (log entry 1), is the model's choice. -/
def Obligations.EveryTransactionIsOneStep : Prop :=
  (∀ s : State, ∃ t, step s = .next t ∧ t.inputs = s.inputs.drop 1) ∧
  (∀ s : State, ∃ t, runFor s.inputs.length s = .next t ∧ t.inputs = [])

/-- The invariants of 10_state.md, section 5, items 1, 2 and 4 (which the spec marks as derived), and that `ERR` holds no
code above 5: every step from every state that meets them keeps them. -/
def Obligations.StepKeepsTheInvariants : Prop :=
  ∀ s t : State, Inv s → step s = .next t → Inv t

/-- The invariants hold after reset (10_state.md, sections 5 and 6). -/
def Obligations.ResetMeetsTheInvariants : Prop := Inv State.reset

/-! ### Functions and pins -/

/-- R104: the flag pins are 0 without an Identifier, and with one the case bits of `IDR`, bits 29, 21, 13 and 5; the
premise of four letters is the invariant of R34 item 1, outside which the flags are not defined (log entry 3). -/
def Obligations.FlagPinsShowTheCaseBits : Prop :=
  (∀ s : State, s.idv = false → (pinsOf s).fCritical = false ∧ (pinsOf s).fPublic = false
    ∧ (pinsOf s).fReservedOk = false ∧ (pinsOf s).fSafeToCopy = false ∧ (pinsOf s).fValid = false) ∧
  (∀ s : State, Inv s → s.idv = true → (pinsOf s).fCritical = !s.idr.getLsbD 29 ∧ (pinsOf s).fPublic = !s.idr.getLsbD 21
    ∧ (pinsOf s).fReservedOk = !s.idr.getLsbD 13 ∧ (pinsOf s).fSafeToCopy = s.idr.getLsbD 5
    ∧ (pinsOf s).fValid = !s.idr.getLsbD 13)

/-- R80: the fields of the event word, as numbers, the codes those of R200 written out; kind 3 is never produced; two events
with one word are one event. -/
def Obligations.EventWordFields : Prop :=
  (∀ b, (eventWord (.pay b)).toNat = b.toNat) ∧
  (∀ b, (eventWord (.out b)).toNat = 2 ^ 36 + b.toNat) ∧
  (∀ c v, (eventWord (.done c v)).toNat = 2 * 2 ^ 36 + codeNumber c * 2 ^ 32 + v.toNat) ∧
  (∀ e, (eventWord e).toNat / 2 ^ 36 ≠ 3) ∧
  (∀ e e', eventWord e = eventWord e' → e = e')

/-- Letters and their case bit: a byte is a letter exactly in the two ranges; a letter with bit 5 flipped is again a letter,
and bit 5 is set exactly in lower case (40_identifier.md, section 1: the two ranges are the spec's general knowledge, log
entry 4). -/
def Obligations.CaseBitOfALetter : Prop :=
  (∀ b : Byte, isLetter b = true ↔ (0x41 ≤ b.toNat ∧ b.toNat ≤ 0x5A) ∨ (0x61 ≤ b.toNat ∧ b.toNat ≤ 0x7A)) ∧
  ∀ b : Byte, isLetter b = true →
    isLetter (b ^^^ 0x20#8) = true ∧ (b.getLsbD 5 = true ↔ 0x61 ≤ b.toNat) ∧ (b.getLsbD 5 = false ↔ b.toNat ≤ 0x5A)

/-- For a fixed byte `crc_step` is a bijection on register values, and for a fixed register value two different bytes
give two different results (41_crc.md, section 2, fact (b), the spec's general knowledge, log entry 4). -/
def Obligations.CrcStepIsABijection : Prop :=
  (∀ (b : Byte) (c c' : Word), crcStep c b = crcStep c' b → c = c') ∧
  (∀ (b : Byte) (d : Word), ∃ c, crcStep c b = d) ∧
  (∀ (c : Word) (b b' : Byte), crcStep c b = crcStep c b' → b = b')

/-- Changing one byte anywhere changes the checksum (41_crc.md, section 2, fact (b), the spec's general knowledge, log
entry 4). -/
def Obligations.OneByteChangedChangesTheChecksum : Prop :=
  ∀ (pre post : List Byte) (b b' : Byte), b ≠ b' → crc32 (pre ++ b :: post) ≠ crc32 (pre ++ b' :: post)

/-- Feeding a message and then its checksum, least significant byte first, always leaves `0xDEBB20E3` (41_crc.md, section
2, fact (c), the spec's general knowledge, log entry 4). -/
def Obligations.ChecksumResidue : Prop :=
  ∀ s : List Byte, crcFold (s ++ (be32 (crc32 s)).reverse) = 0xDEBB20E3#32

/-- What `serialize` makes, `parse` gives back: the source's round trip (42_encoder.md, section 2, the bridge;
95_test_vectors.md, section 1). -/
def Obligations.ParseOfSerialize : Prop :=
  ∀ (id : Word) (p : List Byte), lettersOk id = true → p.length < 2 ^ 32 →
    (serialize id p).length = 12 + p.length ∧ parse (serialize id p) = .ok (id, p)

/-- Corruption sensitivity, stated exactly (43_decoder.md, section 2, which the spec marks as derived): one bit of an
accepted frame flipped, in each of its four fields. -/
def Obligations.OneFlippedBitIsRefused : Prop :=
  ∀ (f : List Byte) (id : Word) (p : List Byte) (o j : Nat), parse f = .ok (id, p) → j < 8 → o < f.length →
    (o < 4 → parse (flipBit f o j) = .error .lengthMismatch) ∧
    (4 ≤ o → o < 8 → isLetter (f.getD o 0#8 ^^^ (1#8 <<< j)) = false →
      parse (flipBit f o j) = .error .invalidIdentifier) ∧
    (4 ≤ o → o < 8 → isLetter (f.getD o 0#8 ^^^ (1#8 <<< j)) = true →
      parse (flipBit f o j) = .error .checksumMismatch) ∧
    (8 ≤ o → parse (flipBit f o j) = .error .checksumMismatch)

/-! ### Bridges: command sequences compute the pure functions -/

/-- The bridge of the identifier unit (40_identifier.md, section 3, which the spec marks as derived): exactly one event,
the parse's verdict, and after a success the pins answer for the Identifier. -/
def Obligations.IdLoadComputesTheParse : Prop :=
  ∀ (s : State) (w : Word) (rest : List Input), s.mode = .idle → s.fault = .noFault →
    s.inputs = handedOver (identMacro w) ++ rest →
    ∃ t, step s = .next t ∧ t.inputs = rest ∧ t.mode = .idle ∧ t.fault = .noFault ∧ (pinsOf t).idr = w ∧
      match parseIdentifier w with
      | .ok id => id = w ∧ t.pending = s.pending ++ [.done .ok (flagsWord (idFlags w))] ∧ (pinsOf t).idv = true
          ∧ (pinsOf t).fCritical = (idFlags w).isCritical ∧ (pinsOf t).fPublic = (idFlags w).isPublic
          ∧ (pinsOf t).fReservedOk = (idFlags w).isReservedBitValid ∧ (pinsOf t).fSafeToCopy = (idFlags w).isSafeToCopy
          ∧ (pinsOf t).fValid = (idFlags w).isValid
      | .error c => c = .invalidByte ∧ t.pending = s.pending ++ [.done .invalidByte 0] ∧ (pinsOf t).idv = false

/-- The bridge of the checksum unit (41_crc.md, section 3, which the spec marks as derived): `CRC32 s`, with `NOP`
commands anywhere in it, reports `crc32(s)` in exactly one event and leaves every other register. -/
def Obligations.ChecksumRunComputesCrc32 : Prop :=
  ∀ (s : State) (bs : List Byte) (is : List Instr) (rest : List Input), s.mode = .idle → s.fault = .noFault →
    is.filter (· ≠ .nop) = crc32Macro bs → s.inputs = handedOver is ++ rest →
    runFor is.length s = .next { s with
      inputs := rest, err := .ok, crc := crcFold bs, cnt := BitVec.ofNat 33 (min bs.length (2 ^ 33 - 1))
      pending := s.pending ++ [.done .ok (crc32 bs)] }

/-- The bridge of the encoder (42_encoder.md, section 2, which the spec marks as derived): `ENCODE t, p` emits the frame
`serialize(t, p)` byte for byte between the two `DONE` events, and nothing else. -/
def Obligations.EncodeRunComputesSerialize : Prop :=
  ∀ (s : State) (w : Word) (p : List Byte) (rest : List Input), s.mode = .idle → s.fault = .noFault →
    lettersOk w = true → p.length < 2 ^ 32 → s.inputs = handedOver (encodeMacro w p) ++ rest →
    runFor (p.length + 2) s = .next { s with
      inputs := rest, err := .ok, idr := w, idv := true, len := BitVec.ofNat 32 p.length
      cnt := BitVec.ofNat 33 p.length, crc := crcFold (be32 w ++ p)
      pending := s.pending ++ .done .ok (flagsWord (idFlags w)) :: (serialize w p).map Event.out
        ++ [.done .ok (crc32 (be32 w ++ p))] }

/-- An encode in progress (10_state.md, section 5, items 2 and 3, which the spec marks as derived): after `ENC_START L`
and fewer than `L` payload bytes, `CRC` is the running checksum of the identifier and those bytes, and what has been
emitted is the frame's beginning. -/
def Obligations.EncodeInProgress : Prop :=
  ∀ (s : State) (L : Word) (q : List Byte) (rest : List Input), s.mode = .idle → s.fault = .noFault → s.idv = true →
    q.length < L.toNat → s.inputs = handedOver (.encStart L :: q.map .encByte) ++ rest →
    runFor (q.length + 1) s = .next { s with
      inputs := rest, mode := .enc, len := L, cnt := BitVec.ofNat 33 q.length, crc := crcFold (be32 s.idr ++ q)
      pending := s.pending ++ (be32 L ++ be32 s.idr ++ q).map Event.out }

/-- The registers as a function of the slice (43_decoder.md, section 2, the table before the bridge, and 10_state.md,
section 5, items 5 and 6, which the spec marks as derived), with the `PAY` events emitted so far. -/
def Obligations.DecodeInProgress : Prop :=
  ∀ (s : State) (bs : List Byte) (rest : List Input), s.mode = .idle → s.fault = .noFault →
    s.inputs = handedOver (.decStart :: bs.map .decByte) ++ rest →
    runFor (bs.length + 1) s = .next { s with
      inputs := rest, mode := .dec, idv := false
      cnt := BitVec.ofNat 33 (min bs.length (2 ^ 33 - 1))
      len := BitVec.ofNat 32 (beNumber (bs.take 4))
      idr := fromBe32List (slice bs 4 8)
      crc := crcFold (slice bs 4 (8 + sliceLen bs))
      ckr := BitVec.ofNat 32 (beNumber (slice bs (8 + sliceLen bs) (12 + sliceLen bs)))
      pending := s.pending ++ (slice bs 8 (8 + sliceLen bs)).map Event.pay }

/-- The bridge of the decoder (43_decoder.md, section 2, which the spec marks as derived): `DECODE s` for a slice of any
length emits `PAY` events and then exactly one `DONE`, with the verdict of `parse(s)`, and the host's observation is the
parse's. -/
def Obligations.DecodeRunComputesParse : Prop :=
  ∀ (s : State) (bs : List Byte) (rest : List Input), s.mode = .idle → s.fault = .noFault →
    s.inputs = handedOver (decodeMacro bs) ++ rest →
    ∃ t es, runFor (bs.length + 2) s = .next t ∧ t.inputs = rest ∧ t.mode = .idle
      ∧ t.fault = .noFault ∧ t.pending = s.pending ++ es ∧ decodeObservation es = some (parseObservation bs) ∧
      match parse bs with
      | .ok (id, p) => es = p.map Event.pay ++ [.done .ok (BitVec.ofNat 32 p.length)] ∧ t.idv = true ∧ t.idr = id
          ∧ t.err = .ok
      | .error c => (∃ q : List Byte, es = q.map Event.pay ++ [.done c 0]) ∧ t.idv = false ∧ t.err = c

/-- Independence of operations (20_memory.md, section 5, which the spec marks as derived): from two idle states that agree
on `IDR` and `IDV`, the same words, whatever they are, emit the same events; nothing else crosses. -/
def Obligations.OperationsAreIndependent : Prop :=
  ∀ (ws : List CmdWord) (s₁ s₂ : State), s₁.mode = .idle → s₂.mode = .idle → s₁.fault = .noFault → s₂.fault = .noFault →
    s₁.idr = s₂.idr → s₁.idv = s₂.idv → s₁.inputs = ws.map Input.cmd → s₂.inputs = ws.map Input.cmd →
    ∃ t₁ t₂ es, runFor ws.length s₁ = .next t₁ ∧ runFor ws.length s₂ = .next t₂
      ∧ t₁.pending = s₁.pending ++ es ∧ t₂.pending = s₂.pending ++ es ∧ t₁.mode = t₂.mode ∧ t₁.fault = t₂.fault
      ∧ t₁.idr = t₂.idr ∧ t₁.idv = t₂.idv

/-! ### The host software around the block -/

/-- A container that is well formed for a parse comes back from its own bytes (80_host.md, section 2), whatever the free
signature and terminal identifier are (log entry 7). -/
def Obligations.ContainerRoundTrip : Prop :=
  ∀ cs : List Chunk, ParsableChunks cs →
    ∃ bytes, serializeContainer cs = .ok bytes ∧ parseContainer bytes = .ok cs

/-- Removal (80_host.md, section 2) takes out the first matching chunk and keeps the others in order, one fewer;
without a match it is `NotFound`. -/
def Obligations.RemoveTakesTheFirstMatch : Prop :=
  ∀ (id : Word) (cs : List Chunk),
    (∀ c rest, removeByIdentifier id cs = .ok (c, rest) → ∃ pre post, cs = pre ++ c :: post ∧ rest = pre ++ post
      ∧ c.identifier = id ∧ (∀ d ∈ pre, d.identifier ≠ id) ∧ rest.length + 1 = cs.length) ∧
    ((∀ d ∈ cs, d.identifier ≠ id) → removeByIdentifier id cs = .error (.result .notFound)) ∧
    ((∃ d ∈ cs, d.identifier = id) → ∃ r, removeByIdentifier id cs = .ok r)

/-- Append (80_host.md, section 2): a chunk is inserted immediately before the terminal chunk, or at the
end when there is none; when no chunk had its identifier before, `find` then returns it. A sequence with more than one terminal
chunk is log entry 10. -/
def Obligations.AppendGoesBeforeTheTerminalChunk : Prop :=
  (∀ (c : Chunk) (cs : List Chunk), (∀ d ∈ cs, d.identifier ≠ terminalId) → appendChunk c cs = cs ++ [c]) ∧
  (∀ (c d : Chunk) (cs : List Chunk), (∀ e ∈ cs, e.identifier ≠ terminalId) → d.identifier = terminalId →
    appendChunk c (cs ++ [d]) = cs ++ [c, d]) ∧
  (∀ (c : Chunk) (cs : List Chunk), (∀ d ∈ cs, d.identifier ≠ c.identifier) →
    findByIdentifier c.identifier (appendChunk c cs) = some c)

/-- The finished container (80_host.md, section 2): `TERMINAL_ID` is four letters (free ones, log entries 4 and 7); a finished
sequence is one whose last chunk is the terminal chunk, without payload; append keeps it finished; its bytes end with the
terminal chunk's frame, its length field 0; and they come back from a parse whatever bytes follow them. That a finished
container is not enforced by parse or append is 90_conflicts.md, C5. -/
def Obligations.FinishedContainersEndWithTheTerminalChunk : Prop :=
  lettersOk terminalId = true ∧
  (∀ cs : List Chunk, finished cs = true ↔ ∃ front, cs = front ++ [⟨terminalId, []⟩]) ∧
  (∀ (c : Chunk) (cs : List Chunk), finished cs = true → finished (appendChunk c cs) = true) ∧
  (∀ cs : List Chunk, finished cs = true → (∀ c ∈ cs, serializable c.payload = true) →
    ∃ front, serializeContainer cs = .ok (Config.signature.toList ++ front ++ [0#8, 0#8, 0#8, 0#8] ++ be32 terminalId
      ++ be32 (crc32 (be32 terminalId)))) ∧
  (∀ (cs : List Chunk) (trailing : List Byte), finished cs = true → ParsableChunks cs →
    ∃ bytes, serializeContainer cs = .ok bytes ∧ parseContainer (bytes ++ trailing) = .ok cs)

/-! ### The pins of every state -/

/-- R30: the pins of every state, each the register's value, with the numbers of `MODE`, `FAULT` and `ERR` (R21, R22, R200)
written out; the flag pins are those of the identifier flags. Only an accepted command or a reset changes a register. -/
def Obligations.PinsShowTheRegisters : Prop :=
  (∀ s : State,
    (pinsOf s).mode.toNat = (match s.mode with | .idle => 0 | .crc => 1 | .dec => 2 | .enc => 3) ∧
    (pinsOf s).fault.toNat = (match s.fault with | .noFault => 0 | .illegalCmd => 1 | .protocol => 2) ∧
    (pinsOf s).err.toNat = codeNumber s.err ∧ (pinsOf s).idr = s.idr ∧ (pinsOf s).idv = s.idv ∧ (pinsOf s).len = s.len ∧
    (pinsOf s).cnt = s.cnt ∧ (pinsOf s).crcVal = s.crc ^^^ 0xFFFFFFFF#32 ∧ (pinsOf s).ckr = s.ckr ∧
    (pinsOf s).fCritical = (s.idv && (idFlags s.idr).isCritical) ∧ (pinsOf s).fPublic = (s.idv && (idFlags s.idr).isPublic) ∧
    (pinsOf s).fReservedOk = (s.idv && (idFlags s.idr).isReservedBitValid) ∧
    (pinsOf s).fSafeToCopy = (s.idv && (idFlags s.idr).isSafeToCopy) ∧ (pinsOf s).fValid = (s.idv && (idFlags s.idr).isValid)) ∧
  (∀ s t : State, step s = .next t → ¬ SameRegisters s t →
    ∃ rest, s.inputs = .rst :: rest ∨ ∃ w, s.inputs = .cmd w :: rest)
end

