-- ==== Sys2Proof/Laws/Crc.lean ====
section
/-! SUPPORT. The checksum step is linear and the fold is incremental (rules R121 to R124). -/

namespace Sys2Proof.Machine

/-- One iteration is linear over exclusive-or. -/
theorem crcBit_xor (x y : Word) : crcBit (x ^^^ y) = crcBit x ^^^ crcBit y := by
  unfold crcBit
  rw [BitVec.getLsbD_xor, BitVec.ushiftRight_xor_distrib]
  cases x.getLsbD 0 <;> cases y.getLsbD 0 <;> ext i <;> simp <;> grind

/-- `n` iterations are linear over exclusive-or. -/
theorem crcBits_xor (n : Nat) : ∀ x y : Word, crcBits n (x ^^^ y) = crcBits n x ^^^ crcBits n y := by
  induction n with
  | zero => intro x y; rfl
  | succ n ih => intro x y; simp only [crcBits, crcBit_xor, ih]

/-- A byte enters `crc_step` linearly. -/
theorem crcStep_xor (c d : Word) (b : Byte) : crcStep (c ^^^ d) b = crcStep c b ^^^ crcBits 8 d := by
  rw [crcStep, crcStep, ← crcBits_xor]
  congr 1
  ext i
  simp
  grind

/-- The fold is incremental (R124 (a)). -/
theorem crcFold_append (s t : List Byte) : crcFold (s ++ t) = t.foldl crcStep (crcFold s) := by
  simp [crcFold]

/-- The fold takes one more byte (R123). -/
theorem crcFold_snoc (s : List Byte) (b : Byte) : crcFold (s ++ [b]) = crcStep (crcFold s) b := by
  simp [crcFold]

end Sys2Proof.Machine
end

