-- ==== Sys2Proof/Laws/State.lean ====
section
/-! SUPPORT. One lemma per field per shared update of the state, true by unfolding (R192, R203, R204). -/

namespace Sys2Proof.Machine

variable (es : List Event) (c : ResultCode) (v : Word) (f : FaultCode) (s : State)

@[simp] theorem emit_mode : (emit es s).mode = s.mode := rfl
@[simp] theorem emit_fault : (emit es s).fault = s.fault := rfl
@[simp] theorem emit_err : (emit es s).err = s.err := rfl
@[simp] theorem emit_idr : (emit es s).idr = s.idr := rfl
@[simp] theorem emit_idv : (emit es s).idv = s.idv := rfl
@[simp] theorem emit_len : (emit es s).len = s.len := rfl
@[simp] theorem emit_cnt : (emit es s).cnt = s.cnt := rfl
@[simp] theorem emit_crc : (emit es s).crc = s.crc := rfl
@[simp] theorem emit_ckr : (emit es s).ckr = s.ckr := rfl
@[simp] theorem emit_inputs : (emit es s).inputs = s.inputs := rfl
@[simp] theorem emit_pending : (emit es s).pending = s.pending ++ es := rfl
@[simp] theorem emit_taken : (emit es s).taken = s.taken := rfl
@[simp] theorem emit_draws : (emit es s).draws = s.draws := rfl

@[simp] theorem reportDone_mode : (reportDone c v s).mode = s.mode := rfl
@[simp] theorem reportDone_fault : (reportDone c v s).fault = s.fault := rfl
@[simp] theorem reportDone_err : (reportDone c v s).err = c := rfl
@[simp] theorem reportDone_idr : (reportDone c v s).idr = s.idr := rfl
@[simp] theorem reportDone_idv : (reportDone c v s).idv = s.idv := rfl
@[simp] theorem reportDone_len : (reportDone c v s).len = s.len := rfl
@[simp] theorem reportDone_cnt : (reportDone c v s).cnt = s.cnt := rfl
@[simp] theorem reportDone_crc : (reportDone c v s).crc = s.crc := rfl
@[simp] theorem reportDone_ckr : (reportDone c v s).ckr = s.ckr := rfl
@[simp] theorem reportDone_inputs : (reportDone c v s).inputs = s.inputs := rfl
@[simp] theorem reportDone_pending : (reportDone c v s).pending = s.pending ++ [.done c v] := rfl
@[simp] theorem reportDone_taken : (reportDone c v s).taken = s.taken := rfl
@[simp] theorem reportDone_draws : (reportDone c v s).draws = s.draws := rfl

@[simp] theorem raiseFailure_mode : (raiseFailure c s).mode = .idle := rfl
@[simp] theorem raiseFailure_fault : (raiseFailure c s).fault = s.fault := rfl
@[simp] theorem raiseFailure_err : (raiseFailure c s).err = c := rfl
@[simp] theorem raiseFailure_idr : (raiseFailure c s).idr = s.idr := rfl
@[simp] theorem raiseFailure_idv : (raiseFailure c s).idv = s.idv := rfl
@[simp] theorem raiseFailure_len : (raiseFailure c s).len = s.len := rfl
@[simp] theorem raiseFailure_cnt : (raiseFailure c s).cnt = s.cnt := rfl
@[simp] theorem raiseFailure_crc : (raiseFailure c s).crc = s.crc := rfl
@[simp] theorem raiseFailure_ckr : (raiseFailure c s).ckr = s.ckr := rfl
@[simp] theorem raiseFailure_inputs : (raiseFailure c s).inputs = s.inputs := rfl
@[simp] theorem raiseFailure_pending : (raiseFailure c s).pending = s.pending ++ [.done c 0] := rfl
@[simp] theorem raiseFailure_taken : (raiseFailure c s).taken = s.taken := rfl
@[simp] theorem raiseFailure_draws : (raiseFailure c s).draws = s.draws := rfl

@[simp] theorem takeFault_mode : (takeFault f s).mode = s.mode := rfl
@[simp] theorem takeFault_fault : (takeFault f s).fault = f := rfl
@[simp] theorem takeFault_err : (takeFault f s).err = s.err := rfl
@[simp] theorem takeFault_idr : (takeFault f s).idr = s.idr := rfl
@[simp] theorem takeFault_idv : (takeFault f s).idv = s.idv := rfl
@[simp] theorem takeFault_len : (takeFault f s).len = s.len := rfl
@[simp] theorem takeFault_cnt : (takeFault f s).cnt = s.cnt := rfl
@[simp] theorem takeFault_crc : (takeFault f s).crc = s.crc := rfl
@[simp] theorem takeFault_ckr : (takeFault f s).ckr = s.ckr := rfl
@[simp] theorem takeFault_inputs : (takeFault f s).inputs = s.inputs := rfl
@[simp] theorem takeFault_pending : (takeFault f s).pending = s.pending := rfl
@[simp] theorem takeFault_taken : (takeFault f s).taken = s.taken := rfl
@[simp] theorem takeFault_draws : (takeFault f s).draws = s.draws := rfl

@[simp] theorem applyReset_mode : (applyReset s).mode = .idle := rfl
@[simp] theorem applyReset_fault : (applyReset s).fault = .noFault := rfl
@[simp] theorem applyReset_err : (applyReset s).err = .ok := rfl
@[simp] theorem applyReset_idr : (applyReset s).idr = 0#32 := rfl
@[simp] theorem applyReset_idv : (applyReset s).idv = false := rfl
@[simp] theorem applyReset_len : (applyReset s).len = 0#32 := rfl
@[simp] theorem applyReset_cnt : (applyReset s).cnt = 0#33 := rfl
@[simp] theorem applyReset_crc : (applyReset s).crc = 0xFFFFFFFF#32 := rfl
@[simp] theorem applyReset_ckr : (applyReset s).ckr = 0#32 := rfl
@[simp] theorem applyReset_inputs : (applyReset s).inputs = s.inputs := rfl
@[simp] theorem applyReset_pending : (applyReset s).pending = survivors s.draws s.pending := rfl
@[simp] theorem applyReset_taken : (applyReset s).taken = s.taken := rfl
@[simp] theorem applyReset_draws : (applyReset s).draws = s.draws + s.pending.length := rfl

end Sys2Proof.Machine
end

