-- ==== Sys2Proof/Laws/Ops.lean ====
section
/-! SUPPORT. What each shared operation can do, said once: the tests before a command, the event channel, reset, and
one step. -/

namespace Sys2Proof.Machine

/-- Test 1 of R190. -/
theorem guarded_faulted {i : Instr} {e : State → State} {s : State} (h : s.fault ≠ .noFault) : guarded i e s = s := by
  simp [guarded, h]

/-- Test 3 of R190. -/
theorem guarded_outOfMode {i : Instr} {e : State → State} {s : State} (h : s.fault = .noFault)
    (hm : allowedIn i s.mode = false) : guarded i e s = takeFault .protocol s := by
  simp [guarded, h, hm]

/-- Test 4 of R190. -/
theorem guarded_allowed {i : Instr} {e : State → State} {s : State} (h : s.fault = .noFault)
    (hm : allowedIn i s.mode = true) : guarded i e s = e s := by
  simp [guarded, h, hm]

/-- Everything the tests before a command can do. -/
theorem guarded_cases (i : Instr) (e : State → State) (s : State) :
    (s.fault ≠ .noFault ∧ guarded i e s = s) ∨
    (s.fault = .noFault ∧ allowedIn i s.mode = false ∧ guarded i e s = takeFault .protocol s) ∨
    (s.fault = .noFault ∧ allowedIn i s.mode = true ∧ guarded i e s = e s) := by
  by_cases h : s.fault = .noFault
  · cases hm : allowedIn i s.mode
    · exact .inr (.inl ⟨h, rfl, guarded_outOfMode h hm⟩)
    · exact .inr (.inr ⟨h, rfl, guarded_allowed h hm⟩)
  · exact .inl ⟨h, guarded_faulted h⟩

/-- Everything an illegal word can do (R192). -/
theorem illegalWord_cases (s : State) :
    (s.fault ≠ .noFault ∧ illegalWord s = s) ∨ (s.fault = .noFault ∧ illegalWord s = takeFault .illegalCmd s) := by
  by_cases h : s.fault = .noFault <;> simp [illegalWord, h]

/-- Taking an event keeps the stream: the events taken, then those pending. -/
theorem takeEvent_stream (s : State) : (takeEvent s).taken ++ (takeEvent s).pending = s.taken ++ s.pending := by
  unfold takeEvent
  split <;> simp_all

/-- The events a reset keeps are some of those pending, in their order, whatever the free value is (R232). -/
theorem survivors_sublist (es : List Event) : ∀ n, (survivors n es).Sublist es := by
  induction es with
  | nil => intro n; exact List.Sublist.refl _
  | cons e es ih =>
    intro n
    unfold survivors
    split
    · exact (ih (n + 1)).cons e
    · exact (ih (n + 1)).cons_cons e

/-- Everything one step can do, by the host's next transaction. -/
theorem step_cases (s : State) :
    (s.inputs = [] ∧ step s = .next s) ∨
    (∃ w rest i, s.inputs = .cmd w :: rest ∧ decode w = .ok i ∧ step s = exec i { s with inputs := rest }) ∨
    (∃ w rest e, s.inputs = .cmd w :: rest ∧ decode w = .error e
      ∧ step s = .next (illegalWord { s with inputs := rest })) ∨
    (∃ rest, s.inputs = .evtReady :: rest ∧ step s = .next (takeEvent { s with inputs := rest })) ∨
    (∃ rest, s.inputs = .rst :: rest ∧ step s = .next (applyReset { s with inputs := rest })) := by
  match h : s.inputs with
  | [] => exact .inl ⟨rfl, by simp [step, nextTransaction, h]⟩
  | .cmd w :: rest =>
    match hd : decode w with
    | .ok i => exact .inr (.inl ⟨w, rest, i, rfl, hd, by simp [step, nextTransaction, acceptWord, h, hd]⟩)
    | .error e => exact .inr (.inr (.inl ⟨w, rest, e, rfl, hd, by simp [step, nextTransaction, acceptWord, h, hd]⟩))
  | .evtReady :: rest => exact .inr (.inr (.inr (.inl ⟨rest, rfl, by simp [step, nextTransaction, h]⟩)))
  | .rst :: rest => exact .inr (.inr (.inr (.inr ⟨rest, rfl, by simp [step, nextTransaction, h]⟩)))

end Sys2Proof.Machine
end

