-- ==== Sys2Proof/Laws/Exec.lean ====
section
/-! SUPPORT. What each command does in the mode that allows it, said once: `effectOf`, and `exec` in its terms. -/

namespace Sys2Proof.Machine

/-- The effect of each command once the tests of R190 have passed. -/
def effectOf : Instr → State → State
  | .nop => id
  | .idLoad w => idLoadEffect w
  | .crcStart => crcStartEffect
  | .crcByte b => crcByteEffect b
  | .crcEnd => crcEndEffect
  | .encStart L => encStartEffect L
  | .encByte b => encByteEffect b
  | .decStart => decStartEffect
  | .decByte b => decByteEffect b
  | .decEnd => decEndEffect

/-- `exec` is the tests of R190 before the command's effect. -/
theorem exec_eq_guarded (i : Instr) (s : State) : exec i s = .next (guarded i (effectOf i) s) := by
  cases i <;> rfl

/-- Everything `exec` can do. -/
theorem exec_cases {i : Instr} {s t : State} (h : exec i s = .next t) :
    (s.fault ≠ .noFault ∧ t = s) ∨
    (s.fault = .noFault ∧ allowedIn i s.mode = false ∧ t = takeFault .protocol s) ∨
    (s.fault = .noFault ∧ allowedIn i s.mode = true ∧ t = effectOf i s) := by
  rw [exec_eq_guarded] at h
  have ht : guarded i (effectOf i) s = t := by simpa using h
  subst ht
  exact guarded_cases i (effectOf i) s

/-- A command in a mode that allows it, on a block that is not faulted. -/
theorem exec_allowed {i : Instr} {s : State} (hf : s.fault = .noFault) (hm : allowedIn i s.mode = true) :
    exec i s = .next (effectOf i s) := by
  rw [exec_eq_guarded, guarded_allowed hf hm]

/-- No command's effect writes `FAULT` (R36). -/
theorem effectOf_fault (i : Instr) (s : State) : (effectOf i s).fault = s.fault := by
  cases i <;>
    simp only [effectOf, idLoadEffect, crcStartEffect, crcByteEffect, crcEndEffect, encStartEffect, encByteEffect,
      finishFrame, decStartEffect, decByteEffect, decEndEffect, id] <;>
    (repeat' split) <;> simp

/-- No command's effect touches the host's side of the ports. -/
theorem effectOf_ports (i : Instr) (s : State) :
    (effectOf i s).inputs = s.inputs ∧ (effectOf i s).taken = s.taken ∧ (effectOf i s).draws = s.draws := by
  cases i <;>
    simp only [effectOf, idLoadEffect, crcStartEffect, crcByteEffect, crcEndEffect, encStartEffect, encByteEffect,
      finishFrame, decStartEffect, decByteEffect, decEndEffect, id] <;>
    (repeat' split) <;> simp

/-- A command's effect only adds events, at the end (R58). -/
theorem effectOf_pending (i : Instr) (s : State) : ∃ es, (effectOf i s).pending = s.pending ++ es := by
  cases i <;>
    simp only [effectOf, idLoadEffect, crcStartEffect, crcByteEffect, crcEndEffect, encStartEffect, encByteEffect,
      finishFrame, decStartEffect, decByteEffect, decEndEffect, id] <;>
    (repeat' split) <;> simp [List.append_assoc]

/-- A command handed over as the next transaction, in a mode that allows it. -/
theorem step_handedOver {i : Instr} {s : State} {rest : List Input} (hi : s.inputs = .cmd (encode i) :: rest)
    (hd : decode (encode i) = .ok i) (hf : s.fault = .noFault) (hm : allowedIn i s.mode = true) :
    step s = .next (effectOf i { s with inputs := rest }) := by
  have h : step s = exec i { s with inputs := rest } := by
    simp [step, nextTransaction, acceptWord, hi, hd]
  exact h.trans (exec_allowed (s := { s with inputs := rest }) hf hm)

end Sys2Proof.Machine
end

