-- ==== Sys2Proof/Laws/Operands.lean ====
section
/-! SUPPORT. The spec lemma of each byte packing, and the saturating count as a minimum (rules R7, R8, R24). -/

namespace Sys2Proof.Machine

/-- `sat33` is the minimum with `2^33 - 1` (R8). -/
theorem sat33_eq_min (n : Nat) : sat33 n = BitVec.ofNat 33 (min n (2 ^ 33 - 1)) := by
  unfold sat33
  split
  · rw [Nat.min_eq_left (by omega)]
  · rw [Nat.min_eq_right (by omega)]

/-- The stored count as a number (R27). -/
theorem sat33_toNat (n : Nat) : (sat33 n).toNat = min n (2 ^ 33 - 1) := by
  rw [sat33_eq_min, BitVec.toNat_ofNat, Nat.mod_eq_of_lt]
  omega

/-- The next byte of a big-endian field, as numbers (R8). -/
theorem shiftInByte_eq (v : Word) (b : Byte) : shiftInByte v b = BitVec.ofNat 32 (256 * v.toNat + b.toNat) := by
  apply BitVec.eq_of_toNat_eq
  have hb := b.isLt
  have hv := v.isLt
  have h : 256 * v.toNat + b.toNat = 2 ^ 8 * v.toNat ||| b.toNat := Nat.two_pow_add_eq_or_of_lt hb v.toNat
  simp only [shiftInByte, BitVec.toNat_or, BitVec.toNat_shiftLeft, BitVec.toNat_setWidth, BitVec.toNat_ofNat, h,
    Nat.or_mod_two_pow, Nat.shiftLeft_eq, Nat.mul_comm v.toNat]

/-- A byte of a word as a number: byte 0 is bits 31:24 (R24). -/
theorem wordByte_toNat (i : Nat) (w : Word) : (wordByte i w).toNat = w.toNat / 2 ^ (24 - 8 * i) % 256 := by
  simp [wordByte, BitVec.extractLsb'_toNat, Nat.shiftRight_eq_div_pow]

/-- `from_be32` as a number (R7). -/
theorem fromBe32_toNat (b0 b1 b2 b3 : Byte) :
    (fromBe32 b0 b1 b2 b3).toNat = b0.toNat * 2 ^ 24 + b1.toNat * 2 ^ 16 + b2.toNat * 2 ^ 8 + b3.toNat := by
  have h0 := b0.isLt
  have h1 := b1.isLt
  have h2 := b2.isLt
  have h3 := b3.isLt
  simp only [fromBe32, BitVec.toNat_ofNat]
  omega

/-- `be32` and `from_be32` are inverses (R7), on words. -/
theorem fromBe32List_be32 (w : Word) : fromBe32List (be32 w) = w := by
  apply BitVec.eq_of_toNat_eq
  have hw := w.isLt
  simp only [fromBe32List, be32, List.getD_cons_zero, List.getD_cons_succ, fromBe32_toNat, wordByte_toNat]
  omega

/-- `be32` and `from_be32` are inverses (R7), on four bytes. -/
theorem be32_fromBe32 (b0 b1 b2 b3 : Byte) : be32 (fromBe32 b0 b1 b2 b3) = [b0, b1, b2, b3] := by
  have h0 := b0.isLt
  have h1 := b1.isLt
  have h2 := b2.isLt
  have h3 := b3.isLt
  simp only [be32, List.cons.injEq, and_true]
  refine ⟨?_, ?_, ?_, ?_⟩ <;> apply BitVec.eq_of_toNat_eq <;> rw [wordByte_toNat, fromBe32_toNat] <;> omega

/-- A word has four bytes. -/
theorem be32_length (w : Word) : (be32 w).length = 4 := rfl

/-- A write of one byte of a register shows in that byte and in no other (R24). -/
theorem wordByte_setWordByte {i j : Nat} (hi : i < 4) (hj : j < 4) (b : Byte) (w : Word) :
    wordByte j (setWordByte i b w) = if j = i then b else wordByte j w := by
  ext k hk
  simp only [wordByte, setWordByte, BitVec.getElem_extractLsb', BitVec.getLsbD_or, BitVec.getLsbD_and,
    BitVec.getLsbD_not, BitVec.getLsbD_shiftLeft, BitVec.getLsbD_setWidth]
  have hm : ∀ n < 24, (0xFF#32).getLsbD n = decide (n < 8) := by decide
  interval_cases i <;> interval_cases j <;> interval_cases k <;> simp [BitVec.getLsbD_eq_getElem]

end Sys2Proof.Machine
end

