-- ==== Sys2Proof/Laws/HostSoftware.lean ====
section
/-! SUPPORT. The letters a free identifier is made of (rules R101, R252). -/

namespace Sys2Proof.Laws

open Sys2Proof.Machine

/-- Every place of the 52 letters holds a letter (R101). -/
@[simp] theorem isLetter_letterByte : ∀ n : Fin 52, isLetter (letterByte n) = true := by decide

/-- Every letter stands at one of the 52 places (R101), so a free letter is any letter. -/
theorem letterByte_surjective : ∀ b : Byte, isLetter b = true → ∃ n, letterByte n = b := by decide +kernel

/-- A word of four bytes is four letters when each of them is one (R102). -/
theorem lettersOk_fromBe32 (b0 b1 b2 b3 : Byte) :
    lettersOk (fromBe32 b0 b1 b2 b3) = (isLetter b0 && isLetter b1 && isLetter b2 && isLetter b3) := by
  have h := be32_fromBe32 b0 b1 b2 b3
  simp only [be32, List.cons.injEq, and_true] at h
  simp only [lettersOk, h]

/-- Four letters make a word of four letters (R102). -/
theorem lettersOk_letterBytes (v : Vector (Fin 52) 4) : lettersOk (fromBe32List (v.toList.map letterByte)) = true := by
  obtain ⟨a, b, c, d, h⟩ : ∃ a b c d, v.toList = [a, b, c, d] :=
    ⟨v[0], v[1], v[2], v[3], List.ext_getElem (by simp) fun i hi _ => by
      have hi4 : i < 4 := by simpa using hi
      interval_cases i <;> simp⟩
  rw [h]
  simp [fromBe32List, lettersOk_fromBe32]

end Sys2Proof.Laws
end

