-- ==== Sys2Proof/Laws/PerInstr.lean ====
section
/-! SUPPORT. The statements made per instruction, one lemma per constructor: the family EncodedWord. -/

namespace Sys2Proof.Laws.EncodedWord

/-- An instruction is well formed and its word is `op * 2^32 + arg` (R83), a defined encoding (R79). -/
def Statement (i : Instr) : Prop :=
  i.wellFormed = true ∧ (encode i).toNat = i.opArg.1 * 2 ^ 32 + i.opArg.2 ∧ definedEncoding (encode i) = true

/-- A command word as a number (R83). -/
theorem cmdWord_toNat {op : Nat} (h : op < 16) (arg : Word) : (cmdWord op arg).toNat = op * 2 ^ 32 + arg.toNat := by
  have ha := arg.isLt
  rw [cmdWord, BitVec.toNat_ofNat, Nat.mod_eq_of_lt]
  omega

/-- A byte argument as a number (R78). -/
theorem byteArg_toNat (b : Byte) : (byteArg b).toNat = b.toNat := by
  have hb := b.isLt
  rw [byteArg, BitVec.toNat_setWidth, Nat.mod_eq_of_lt]
  omega

/-- What an instruction needs for its statement: its argument meets its form, and its word is the encoding of both. -/
theorem statement_of {i : Instr} {op : Nat} {arg : Word} (f : ArgForm) (hi : i.opArg = (op, arg.toNat)) (ho : op < 16)
    (hf : argFormOfOp op = some f) (ha : f.admits arg.toNat = true) (he : encode i = cmdWord op arg) : Statement i := by
  have hw : (encode i).toNat = op * 2 ^ 32 + arg.toNat := by rw [he, cmdWord_toNat ho]
  have hl := arg.isLt
  have h1 : (encode i).toNat / 2 ^ 32 = op := by omega
  have h2 : (encode i).toNat % 2 ^ 32 = arg.toNat := by omega
  refine ⟨?_, ?_, ?_⟩
  · rw [Instr.wellFormed, hi, hf]; exact ha
  · rw [hi]; exact hw
  · rw [definedEncoding, h1, h2, hf]; exact ha

/-- A byte meets the byte form (R78). -/
theorem byte_admits (b : Byte) : ArgForm.byte.admits (byteArg b).toNat = true := by
  rw [byteArg_toNat]
  exact decide_eq_true b.isLt

/-- A byte command's opcode and argument. -/
theorem byte_opArg {i : Instr} {op : Nat} {b : Byte} (h : i.opArg = (op, b.toNat)) :
    i.opArg = (op, (byteArg b).toNat) := by
  rw [byteArg_toNat, h]

theorem nop : Statement .nop := statement_of (op := 0) (arg := 0) .none rfl (by decide) rfl rfl rfl

theorem idLoad (w : Word) : Statement (.idLoad w) := statement_of (op := 1) .word rfl (by decide) rfl rfl rfl

theorem crcStart : Statement .crcStart := statement_of (op := 2) (arg := 0) .none rfl (by decide) rfl rfl rfl

theorem crcByte (b : Byte) : Statement (.crcByte b) :=
  statement_of (op := 3) .byte (byte_opArg rfl) (by decide) rfl (byte_admits b) rfl

theorem crcEnd : Statement .crcEnd := statement_of (op := 4) (arg := 0) .none rfl (by decide) rfl rfl rfl

theorem encStart (L : Word) : Statement (.encStart L) := statement_of (op := 5) .word rfl (by decide) rfl rfl rfl

theorem encByte (b : Byte) : Statement (.encByte b) :=
  statement_of (op := 6) .byte (byte_opArg rfl) (by decide) rfl (byte_admits b) rfl

theorem decStart : Statement .decStart := statement_of (op := 7) (arg := 0) .none rfl (by decide) rfl rfl rfl

theorem decByte (b : Byte) : Statement (.decByte b) :=
  statement_of (op := 8) .byte (byte_opArg rfl) (by decide) rfl (byte_admits b) rfl

theorem decEnd : Statement .decEnd := statement_of (op := 9) (arg := 0) .none rfl (by decide) rfl rfl rfl

end Sys2Proof.Laws.EncodedWord

/-- Every instruction is well formed: the operand types leave no other value. -/
theorem Sys2Proof.Laws.wellFormed_true (i : Sys2Proof.Instr) : i.wellFormed = true := by
  cases i with
  | nop => exact EncodedWord.nop.1
  | idLoad w => exact (EncodedWord.idLoad w).1
  | crcStart => exact EncodedWord.crcStart.1
  | crcByte b => exact (EncodedWord.crcByte b).1
  | crcEnd => exact EncodedWord.crcEnd.1
  | encStart L => exact (EncodedWord.encStart L).1
  | encByte b => exact (EncodedWord.encByte b).1
  | decStart => exact EncodedWord.decStart.1
  | decByte b => exact (EncodedWord.decByte b).1
  | decEnd => exact EncodedWord.decEnd.1
end

