-- ==== Sys2Proof/Laws/Run.lean ====
section
/-! SUPPORT. Runs of the machine, one step or one command at a time. -/

namespace Sys2Proof.Safety

open Sys2Proof.Machine

@[simp] theorem runFor_zero (s : State) : runFor 0 s = .next s := rfl

/-- A run of one more step. -/
theorem runFor_succ (n : Nat) {s t : State} (h : step s = .next t) : runFor (n + 1) s = runFor n t := by
  have hc : Sys2Proof.core.step s = .next t := h
  simp only [runFor, Host.Core.run]
  rw [hc]

/-- Every step answers a next state, less the transaction it ran. -/
theorem step_next (s : State) : ∃ t, step s = .next t ∧ t.inputs = s.inputs.tail := by
  rcases step_cases s with ⟨hi, h⟩ | ⟨w, rest, i, hi, -, h⟩ | ⟨w, rest, e, hi, -, h⟩ | ⟨rest, hi, h⟩ | ⟨rest, hi, h⟩
  · exact ⟨s, h, by simp [hi]⟩
  · rw [exec_eq_guarded] at h
    refine ⟨_, h, ?_⟩
    rcases guarded_cases i (effectOf i) { s with inputs := rest } with ⟨-, g⟩ | ⟨-, -, g⟩ | ⟨-, -, g⟩ <;> rw [g]
    · simp [hi]
    · simp [hi]
    · simp [(effectOf_ports i _).1, hi]
  · refine ⟨_, h, ?_⟩
    rcases illegalWord_cases { s with inputs := rest } with ⟨-, g⟩ | ⟨-, g⟩ <;> rw [g] <;> simp [hi]
  · refine ⟨_, h, ?_⟩
    unfold takeEvent
    split <;> simp [hi]
  · exact ⟨_, h, by simp [hi]⟩

/-- A run continues where a shorter one ended. -/
theorem runFor_add (m n : Nat) : ∀ {s t : State}, runFor m s = .next t → runFor (m + n) s = runFor n t := by
  induction m with
  | zero =>
    intro s t h
    have hst : s = t := by simpa using h
    rw [hst, Nat.zero_add]
  | succ m ih =>
    intro s t h
    obtain ⟨u, hu, -⟩ := step_next s
    rw [runFor_succ m hu] at h
    rw [Nat.succ_add, runFor_succ _ hu]
    exact ih h

/-- A run of one command, handed over as its command word, in a mode that allows it. -/
theorem runFor_command {i : Instr} {s : State} {rest : List Input} (hi : s.inputs = .cmd (encode i) :: rest)
    (hd : decode (encode i) = .ok i) (hf : s.fault = .noFault) (hm : allowedIn i s.mode = true) :
    runFor 1 s = .next (effectOf i { s with inputs := rest }) := by
  rw [runFor_succ 0 (step_handedOver hi hd hf hm), runFor_zero]

end Sys2Proof.Safety
end

