-- ==== Sys2Proof/Tests/Slice0.lean ====
section
/-! SUPPORT. Tests of the model against the words of 30_encoding.md and the vectors of 95_test_vectors.md, and for every
obligation with hypotheses a concrete state and operands that meet them. -/

namespace Sys2Proof.Tests

open Sys2Proof.Machine Sys2Proof.Safety

/-! ### Small states -/

/-- The reset state in another mode. -/
def inMode (m : Mode) : State := { State.reset with mode := m }

/-- The state in which a command word is the host's next transaction. -/
def given (i : Input) (s : State) : State := { s with inputs := [i] }

/-- The state after `ID_LOAD "RuSt"`, the event taken and forgotten (vector TI1). -/
def loaded : State := { State.reset with idr := 0x52755374#32, idv := true }

/-- In the middle of an encode for `"RuSt"` (after R143, R145). -/
def encoding (len : Word) (cnt : Count) (crc : Word) : State :=
  { loaded with mode := .enc, len := len, cnt := cnt, crc := crc }

/-- In the middle of a decode. -/
def decoding (idr len : Word) (cnt : Count) (crc ckr : Word) : State :=
  { State.reset with mode := .dec, idr := idr, len := len, cnt := cnt, crc := crc, ckr := ckr }

/-- The decode of the frame of vector TE2 after its 13 bytes (vector TD1), waiting for `DEC_END`. -/
def decoded : State := decoding 0x52755374 1 13 0x4E2FF8A2 0xB1D0075D

/-- A block that has taken `PROTOCOL`. -/
def faulted : State := { inMode .crc with fault := .protocol }

/-- The frame of vector TE2: identifier `"RuSt"`, payload `21`. -/
def goodFrame : List Byte :=
  [0x00, 0x00, 0x00, 0x01, 0x52, 0x75, 0x53, 0x74, 0x21, 0xB1, 0xD0, 0x07, 0x5D]

/-- The next state of an outcome, if it is one. -/
def answer : Host.Outcome State Fault Refusal → Option State
  | .next t => some t
  | .fault _ => none
  | .refused _ => none

theorem next_of {o : Host.Outcome State Fault Refusal} {t : State} (h : answer o = some t) : o = .next t := by
  cases o with
  | next u => exact congrArg _ (Option.some.inj h)
  | fault r => cases h
  | refused r => cases h

/-! ### Ill-formed words, one for each check of R78 and R79 -/

theorem test_reserved_opcode_refused : definedEncoding 0xA00000000#36 = false ∧ definedEncoding 0xF00000000#36 = false := by
  decide

theorem test_none_form_with_argument_refused :
    definedEncoding 0x000000001#36 = false ∧ definedEncoding 0x280000000#36 = false
      ∧ definedEncoding 0x400000001#36 = false ∧ definedEncoding 0x700000100#36 = false
      ∧ definedEncoding 0x900000001#36 = false := by
  decide

theorem test_byte_form_with_high_bits_refused :
    definedEncoding 0x300000100#36 = false ∧ definedEncoding 0x680000000#36 = false
      ∧ definedEncoding 0x800000100#36 = false := by
  decide

theorem test_forms_check_their_argument :
    ArgForm.none.admits 1 = false ∧ ArgForm.byte.admits 256 = false ∧ ArgForm.byte.admits 255 = true
      ∧ argFormOfOp 10 = none ∧ (Instr.crcByte 0xFF#8).wellFormed = true := by
  decide

/-! ### Decoding: words written out from R77 and R78 -/

theorem test_decode_nop : decode 0x000000000#36 = .ok .nop := by decide

theorem test_decode_id_load : decode 0x152755374#36 = .ok (.idLoad 0x52755374#32) := by decide

theorem test_decode_crc_start : decode 0x200000000#36 = .ok .crcStart := by decide

theorem test_decode_crc_byte : decode 0x300000061#36 = .ok (.crcByte 0x61#8) := by decide

theorem test_decode_crc_end : decode 0x400000000#36 = .ok .crcEnd := by decide

theorem test_decode_enc_start : decode 0x50000002A#36 = .ok (.encStart 42#32) := by decide

theorem test_decode_enc_byte : decode 0x600000021#36 = .ok (.encByte 0x21#8) := by decide

theorem test_decode_dec_start : decode 0x700000000#36 = .ok .decStart := by decide

theorem test_decode_dec_byte : decode 0x8000000FE#36 = .ok (.decByte 0xFE#8) := by decide

theorem test_decode_dec_end : decode 0x900000000#36 = .ok .decEnd := by decide

theorem test_decode_refuses_by_name :
    decode 0xF00000000#36 = .error .reservedOpcode ∧ decode 0x000000001#36 = .error .argNotZero
      ∧ decode 0x300000100#36 = .error .argHighBitsNotZero := by
  decide

/-- Forty bits are the 36 of the word and four that no port carries. -/
theorem test_table_word :
    decodeTableWord 40 0x152755374 = some (.idLoad 0x52755374#32) ∧ decodeTableWord 40 0x1000000000 = none := by
  decide

/-! ### One step per command: 95_test_vectors.md -/

/-- Vector TF1, its `NOP`: ignored by a faulted block. -/
theorem test_nop : exec .nop faulted = .next faulted :=
  next_of (by decide +kernel)

/-- Vector TI1. -/
theorem test_id_load : exec (.idLoad 0x52755374#32) State.reset
    = .next { loaded with pending := [.done .ok 0x1D#32] } :=
  next_of (by decide +kernel)

/-- Vector TI16, after TI1: a failed load replaces the identifier (TI21). -/
theorem test_id_load_bad_byte : exec (.idLoad 0x52753174#32) loaded
    = .next { loaded with
        idr := 0x52753174#32, idv := false, err := .invalidByte, pending := [.done .invalidByte 0#32] } :=
  next_of (by decide +kernel)

/-- Vector TK6: no residue of an earlier operation. -/
theorem test_crc_start : exec .crcStart { State.reset with crc := 0x174841BC#32, cnt := 1#33 }
    = .next (inMode .crc) :=
  next_of (by decide +kernel)

/-- Vector TK2. -/
theorem test_crc_byte : exec (.crcByte 0x61#8) (inMode .crc)
    = .next { inMode .crc with crc := 0x174841BC#32, cnt := 1#33 } :=
  next_of (by decide +kernel)

/-- R126: a full counter stays full. -/
theorem test_crc_byte_saturates : exec (.crcByte 0x00#8) { inMode .crc with cnt := 0x1FFFFFFFF#33 }
    = .next { inMode .crc with cnt := 0x1FFFFFFFF#33, crc := 0x2DFD1072#32 } :=
  next_of (by decide +kernel)

/-- Vector TK2. -/
theorem test_crc_end : exec .crcEnd { inMode .crc with crc := 0x174841BC#32, cnt := 1#33 }
    = .next { State.reset with crc := 0x174841BC#32, cnt := 1#33, pending := [.done .ok 0xE8B7BE43#32] } :=
  next_of (by decide +kernel)

/-- Vector TE1, its `ENC_START 0`, without the identifier of `"IEND"`: here that of `"RuSt"`, so the checksum is the row
of `"RuSt"` in section 2. -/
theorem test_enc_start_empty : exec (.encStart 0#32) loaded
    = .next { loaded with
        crc := 0x2B7BF6C3#32
        pending := [.out 0x00#8, .out 0x00#8, .out 0x00#8, .out 0x00#8, .out 0x52#8, .out 0x75#8, .out 0x53#8,
          .out 0x74#8, .out 0xD4#8, .out 0x84#8, .out 0x09#8, .out 0x3C#8, .done .ok 0xD484093C#32] } :=
  next_of (by decide +kernel)

/-- Vector TE2, its `ENC_START 1`. -/
theorem test_enc_start : exec (.encStart 1#32) loaded
    = .next { encoding 1 0 0x2B7BF6C3 with
        pending := [.out 0x00#8, .out 0x00#8, .out 0x00#8, .out 0x01#8, .out 0x52#8, .out 0x75#8, .out 0x53#8,
          .out 0x74#8] } :=
  next_of (by decide +kernel)

/-- Vector TE2, its last byte. -/
theorem test_enc_byte_last : exec (.encByte 0x21#8) (encoding 1 0 0x2B7BF6C3)
    = .next { encoding 1 1 0x4E2FF8A2 with
        mode := .idle
        pending := [.out 0x21#8, .out 0xB1#8, .out 0xD0#8, .out 0x07#8, .out 0x5D#8, .done .ok 0xB1D0075D#32] } :=
  next_of (by decide +kernel)

/-- Program P2, its second byte. -/
theorem test_enc_byte : exec (.encByte 0x69#8) (encoding 3 1 0xA5188361)
    = .next { encoding 3 2 0x0E7E90B1 with pending := [.out 0x69#8] } :=
  next_of (by decide +kernel)

/-- Program P4, its second `DEC_START`: `ERR` keeps its code. -/
theorem test_dec_start : exec .decStart { loaded with err := .checksumMismatch, len := 3, cnt := 15, ckr := 0x0FFE122B }
    = .next { inMode .dec with err := .checksumMismatch } :=
  next_of (by decide +kernel)

/-- Program P3, its sixth data byte: `IDR[1]`, and the other bytes kept. -/
theorem test_dec_byte_identifier : exec (.decByte 0x65#8) (decoding 0x54000000 3 5 0x41FB859F 0)
    = .next (decoding 0x54650000 3 6 0x5D29E087 0) :=
  next_of (by decide +kernel)

/-- Vector TD7: a huge length does not wrap, so offset 8 is payload. -/
theorem test_dec_byte_huge_length : exec (.decByte 0xAE#8) (decoding 0x49454E44 0xFFFFFFFF 8 0x51BD9F7D 0)
    = .next { decoding 0x49454E44 0xFFFFFFFF 9 (crcStep 0x51BD9F7D 0xAE) 0 with pending := [.pay 0xAE#8] } :=
  next_of (by decide +kernel)

/-- Vector TD1. -/
theorem test_dec_end : exec .decEnd decoded
    = .next { decoded with mode := .idle, idv := true, pending := [.done .ok 1#32] } :=
  next_of (by decide +kernel)

/-- Vector TD14: the letter test comes before the checksum test. -/
theorem test_dec_end_bad_identifier : exec .decEnd (decoding 0x52753174 1 13 0x057CE7EC 0xFA831812)
    = .next { decoding 0x52753174 1 13 0x057CE7EC 0xFA831812 with
        mode := .idle, err := .invalidIdentifier, pending := [.done .invalidIdentifier 0#32] } :=
  next_of (by decide +kernel)

/-! ### Faults, reset, pins and functions -/

/-- Vector TF13: malformed and out of sequence, `ILLEGAL_CMD` wins. -/
theorem test_illegal_before_protocol : step (given (.cmd 0x300000100#36) State.reset)
    = .next { State.reset with fault := .illegalCmd } :=
  next_of (by decide +kernel)

/-- Vector TF6. -/
theorem test_protocol : step (given (.cmd 0x300000031#36) State.reset)
    = .next { State.reset with fault := .protocol } :=
  next_of (by decide +kernel)

/-- R230. -/
theorem test_reset : step (given .rst { faulted with cnt := 5#33 }) = .next State.reset :=
  next_of (by decide +kernel)

/-- The word placed by `withFetchWord` is the first command after reset. -/
theorem test_first_command : step (State.reset.withFetchWord 40 0x152755374)
    = .next { loaded with pending := [.done .ok 0x1D#32] } :=
  next_of (by decide +kernel)

/-- The pins of vector TI9, `"AZaz"`. -/
theorem test_flag_pins : flagPins { loaded with idr := 0x415A617A#32 } = ⟨true, true, false, true, false⟩ := by
  decide

/-- R80: `DONE(4, 0)` and `PAY(21)` as event words. -/
theorem test_event_word :
    eventWord (.done .checksumMismatch 0#32) = 0x2400000000#38 ∧ eventWord (.pay 0x21#8) = 0x0000000021#38
      ∧ eventWord (.out 0xFF#8) = 0x10000000FF#38 := by
  decide

/-- The single steps of section 2. -/
theorem test_crc_step :
    crcStep 0xFFFFFFFF#32 0x80#8 = 0xC0459352#32 ∧ crcStep 0x00000000#32 0x01#8 = 0x77073096#32
      ∧ crcStep 0x00000000#32 0xFF#8 = 0x2D02EF8D#32 := by
  decide +kernel

/-- The row of `"123456789"` in section 2. -/
theorem test_crc32 : crc32 [0x31, 0x32, 0x33, 0x34, 0x35, 0x36, 0x37, 0x38, 0x39] = 0xCBF43926#32 := by decide +kernel

/-- Vector TE2 as a function. -/
theorem test_serialize : serialize 0x52755374#32 [0x21#8] = goodFrame := by decide +kernel

/-- Vectors TD1, TD4, TD5, TD8, TD10 as a function. -/
theorem test_parse :
    parse goodFrame = .ok (0x52755374#32, [0x21#8]) ∧
    parse (goodFrame.take 11) = .error .truncated ∧
    parse [0, 0, 0, 0, 0x49, 0x45, 0x4E, 0x44, 0xAE, 0x42, 0x60, 0x82, 0] = .error .lengthMismatch ∧
    parse [0, 0, 0, 1, 0x52, 0x75, 0x31, 0x74, 0x21, 0xFA, 0x83, 0x18, 0x13] = .error .invalidIdentifier ∧
    parse [0, 0, 0, 1, 0x72, 0x75, 0x53, 0x74, 0x21, 0xB1, 0xD0, 0x07, 0x5D] = .error .checksumMismatch := by
  decide +kernel

/-- R251 (80_host.md): the length test first, in characters. -/
theorem test_parse_from_text :
    parseFromText "RuSt" = .ok 0x52755374#32 ∧ parseFromText "Ru1" = .error (.result .invalidLength)
      ∧ parseFromText "Ru1t" = .error (.result .invalidByte) := by
  decide +kernel

/-! ### Witnesses: for each obligation with hypotheses a concrete input that meets them, clause by clause -/

/-- The hypotheses of a command's effect clauses. -/
def Ready (m : Mode) (s : State) : Prop := s.fault = .noFault ∧ s.mode = m

theorem inMode_ready (m : Mode) : Ready m (inMode m) := ⟨rfl, rfl⟩

/-- A frame in progress at its boundary states meets the invariants: no byte given, and one byte missing. -/
theorem witness_inv :
    Inv (encoding 1 0 0x2B7BF6C3) ∧ Inv (encoding 0xFFFFFFFF 0xFFFFFFFE 0) ∧ Inv (encoding 2 0 0x2B7BF6C3) ∧ Inv loaded
      ∧ Inv (inMode .dec) := by
  refine ⟨⟨?_, ?_, ?_, ?_⟩, ⟨?_, ?_, ?_, ?_⟩, ⟨?_, ?_, ?_, ?_⟩, ⟨?_, ?_, ?_, ?_⟩, ⟨?_, ?_, ?_, ?_⟩⟩ <;> decide

theorem witness_DecodeEncodeAgree :
    (Instr.crcByte 0xFF#8).wellFormed = true ∧ decode 0x3000000FF#36 = .ok (.crcByte 0xFF#8) := by
  decide

theorem witness_DefinedEncodings :
    (⟨"DEC_END", 0x900000000#36, 0xFFFFFFFFF#36⟩ : OpcodeRow) ∈ opcodeTable ∧ definedEncoding 0xA00000000#36 = false
      ∧ (given (.cmd 0xA00000000#36) State.reset).inputs = [.cmd 0xA00000000#36] ∧ State.reset.fault = .noFault := by
  decide

theorem witness_StepRunsTheDecodedCommand :
    (given (.cmd 0x1FFFFFFFF#36) State.reset).inputs = [.cmd 0x1FFFFFFFF#36]
      ∧ decode 0x1FFFFFFFF#36 = .ok (.idLoad 0xFFFFFFFF#32) ∧ (Instr.idLoad 0xFFFFFFFF#32).wellFormed = true := by
  decide

/-- The four tests: a faulted block, an illegal word, a command out of sequence, a command in sequence. -/
theorem witness_DispatchTestsInOrder :
    ((given (.cmd 0#36) faulted).fault ≠ .noFault) ∧
    ((given (.cmd 0xA00000000#36) State.reset).fault = .noFault ∧ ¬ ∃ i, decode 0xA00000000#36 = .ok i) ∧
    (decode 0x300000031#36 = .ok (.crcByte 0x31#8) ∧ OutOfSequence (.crcByte 0x31#8) State.reset.mode) ∧
    (decode 0x300000031#36 = .ok (.crcByte 0x31#8) ∧ ¬ OutOfSequence (.crcByte 0x31#8) (inMode .crc).mode) := by
  refine ⟨by decide, ⟨rfl, ?_⟩, ⟨by decide, ?_⟩, ⟨by decide, ?_⟩⟩
  · rintro ⟨i, h⟩
    have hd : decode 0xA00000000#36 = .error .reservedOpcode := by decide
    rw [hd] at h
    cases h
  · show Mode.idle ≠ Mode.crc
    decide
  · show ¬ (Mode.crc ≠ Mode.crc)
    decide

theorem witness_CommandAllowedOnlyInItsModes :
    (State.reset.fault = .noFault ∧ OutOfSequence .decEnd State.reset.mode) ∧
    (State.reset.fault = .noFault ∧ ¬ OutOfSequence .nop State.reset.mode) :=
  ⟨⟨rfl, by show Mode.idle ≠ Mode.dec; decide⟩, ⟨rfl, fun h => h⟩⟩

/-- The first fault taken, and a faulted block that is handed a command, an event handshake and nothing. -/
theorem witness_FaultFreezesUntilReset :
    (step (given (.cmd 0xF00000000#36) State.reset) = .next { State.reset with fault := .illegalCmd }) ∧
    (step (given (.cmd 0x400000000#36) faulted) = .next faulted
      ∧ ¬ ∃ rest, (given (.cmd 0x400000000#36) faulted).inputs = .rst :: rest) ∧
    (step { given .evtReady faulted with pending := [.pay 0x21#8] } = .next { faulted with taken := [.pay 0x21#8] }) ∧
    (step faulted = .next faulted ∧ faulted.fault ≠ .noFault) := by
  refine ⟨next_of (by decide), ⟨next_of (by decide), ?_⟩, next_of (by decide), next_of (by decide), by decide⟩
  rintro ⟨rest, h⟩
  cases h

theorem witness_WaitingAndTakingEvents :
    State.reset.inputs = [] ∧ ((given .evtReady State.reset).inputs = [.evtReady] ∧ State.reset.pending = []) ∧
    ({ given .evtReady State.reset with pending := [.pay 0x21#8, .done .ok 1#32] } : State).pending
      = .pay 0x21#8 :: [.done .ok 1#32] := by
  decide

theorem witness_ResetRestoresEveryRegister :
    (given .rst faulted).inputs = [.rst] ∧ step (given .rst faulted) = .next State.reset
      ∧ (given .rst faulted).fault ≠ .noFault ∧ State.reset.fault = .noFault :=
  ⟨rfl, next_of (by decide), by decide, rfl⟩

theorem witness_NopDoesNothing : (0x000000001#36).toNat / 2 ^ 32 = 0 ∧ (0x000000001#36).toNat % 2 ^ 32 ≠ 0 := by decide

theorem witness_IdLoad :
    (Ready .idle State.reset ∧ lettersOk 0x41615A7A#32 = true) ∧ (Ready .idle loaded ∧ lettersOk 0x41414180#32 = false) ∧
    ((inMode .crc).fault = .noFault ∧ (inMode .crc).mode ≠ .idle) :=
  ⟨⟨⟨rfl, rfl⟩, by decide⟩, ⟨⟨rfl, rfl⟩, by decide⟩, rfl, by decide⟩

theorem witness_CrcStart :
    Ready .idle State.reset ∧ (inMode .enc).mode ≠ .idle ∧ (0x200000001#36).toNat / 2 ^ 32 = 2
      ∧ (0x200000001#36).toNat % 2 ^ 32 ≠ 0 :=
  ⟨⟨rfl, rfl⟩, by decide, by decide, by decide⟩

theorem witness_CrcByte :
    Ready .crc (inMode .crc) ∧ Ready .crc { inMode .crc with cnt := 0x1FFFFFFFF#33 } ∧ (inMode .idle).mode ≠ .crc
      ∧ (0x300000100#36).toNat / 2 ^ 32 = 3 ∧ 256 ≤ (0x300000100#36).toNat % 2 ^ 32 :=
  ⟨⟨rfl, rfl⟩, ⟨rfl, rfl⟩, by decide, by decide, by decide⟩

theorem witness_CrcEnd :
    Ready .crc (inMode .crc) ∧ (inMode .dec).mode ≠ .crc ∧ (0x4FFFFFFFF#36).toNat / 2 ^ 32 = 4
      ∧ (0x4FFFFFFFF#36).toNat % 2 ^ 32 ≠ 0 :=
  ⟨⟨rfl, rfl⟩, by decide, by decide, by decide⟩

/-- Without an Identifier; with one and `L` 0, 1 and the largest. -/
theorem witness_EncStart :
    (Ready .idle State.reset ∧ State.reset.idv = false) ∧ (Ready .idle loaded ∧ loaded.idv = true) ∧
    loaded.idr.extractLsb' 24 8 = 0x52#8 ∧ loaded.idr.extractLsb' 16 8 = 0x75#8
      ∧ loaded.idr.extractLsb' 8 8 = 0x53#8 ∧ loaded.idr.extractLsb' 0 8 = 0x74#8 ∧
    crcStep (crcStep (crcStep (crcStep 0xFFFFFFFF#32 0x52#8) 0x75#8) 0x53#8) 0x74#8 = 0x2B7BF6C3#32 ∧
    (1#32 ≠ 0 ∧ 0xFFFFFFFF#32 ≠ 0) ∧ 0xD484093C#32 = 0x2B7BF6C3#32 ^^^ 0xFFFFFFFF#32 ∧
    (inMode .crc).mode ≠ .idle :=
  ⟨⟨⟨rfl, rfl⟩, rfl⟩, ⟨⟨rfl, rfl⟩, rfl⟩, by decide, by decide, by decide, by decide, by decide +kernel, by decide, by decide,
    by decide⟩

/-- Before the last byte and on it, at the smallest and the largest length (`witness_inv` gives the invariants). -/
theorem witness_EncByte :
    (Ready .enc (encoding 2 0 0x2B7BF6C3) ∧ Inv (encoding 2 0 0x2B7BF6C3)
      ∧ (encoding 2 0 0x2B7BF6C3).cnt.toNat + 1 ≠ (encoding 2 0 0x2B7BF6C3).len.toNat) ∧
    (Ready .enc (encoding 1 0 0x2B7BF6C3) ∧ Inv (encoding 1 0 0x2B7BF6C3)
      ∧ (encoding 1 0 0x2B7BF6C3).cnt.toNat + 1 = (encoding 1 0 0x2B7BF6C3).len.toNat
      ∧ 0xB1D0075D#32 = crcStep (encoding 1 0 0x2B7BF6C3).crc 0x21#8 ^^^ 0xFFFFFFFF#32) ∧
    (Ready .enc (encoding 0xFFFFFFFF 0xFFFFFFFE 0)
      ∧ (encoding 0xFFFFFFFF 0xFFFFFFFE 0).cnt.toNat + 1 = (encoding 0xFFFFFFFF 0xFFFFFFFE 0).len.toNat) ∧
    (inMode .idle).mode ≠ .enc ∧ (0x600000100#36).toNat / 2 ^ 32 = 6 ∧ 256 ≤ (0x600000100#36).toNat % 2 ^ 32 :=
  ⟨⟨⟨rfl, rfl⟩, witness_inv.2.2.1, by decide⟩, ⟨⟨rfl, rfl⟩, witness_inv.1, by decide, by decide +kernel⟩,
    ⟨⟨rfl, rfl⟩, by decide +kernel⟩, by decide, by decide, by decide⟩

theorem witness_DecStart :
    Ready .idle loaded ∧ (encoding 1 0 0).mode ≠ .idle ∧ (0x700000100#36).toNat / 2 ^ 32 = 7
      ∧ (0x700000100#36).toNat % 2 ^ 32 ≠ 0 :=
  ⟨⟨rfl, rfl⟩, by decide, by decide, by decide⟩

/-- Whether an offset `k` of a slice with length field `l` falls in each of the five regions of R164. -/
def regions (k : Count) (l : Word) : List Bool :=
  [k.toNat < 4, 4 ≤ k.toNat && k.toNat < 8, 8 ≤ k.toNat && k.toNat < 8 + l.toNat,
    8 + l.toNat ≤ k.toNat && k.toNat < 12 + l.toNat, 12 + l.toNat ≤ k.toNat]

/-- Each region at its first and its last offset, with no payload, one byte of it, and the most there can be: one region
holds each time (for the first 4 offsets `LEN` is not complete; it is 0 there). -/
theorem witness_DecByte :
    Ready .dec (decoding 0 0 3 0 0) ∧
    regions 0 0 = [true, false, false, false, false] ∧ regions 3 0 = [true, false, false, false, false] ∧
    regions 4 1 = [false, true, false, false, false] ∧ regions 7 1 = [false, true, false, false, false] ∧
    regions 8 1 = [false, false, true, false, false] ∧ regions 0x100000006 0xFFFFFFFF = [false, false, true, false, false] ∧
    regions 8 0 = [false, false, false, true, false] ∧ regions 9 1 = [false, false, false, true, false] ∧
    regions 12 1 = [false, false, false, true, false] ∧ regions 0x100000007 0xFFFFFFFF = [false, false, false, true, false] ∧
    regions 12 0 = [false, false, false, false, true] ∧ regions 13 1 = [false, false, false, false, true] ∧
    regions 0x1FFFFFFFF 0xFFFFFFFF = [false, false, false, false, true] ∧
    (inMode .enc).mode ≠ .dec ∧ (0x800000100#36).toNat / 2 ^ 32 = 8 ∧ 256 ≤ (0x800000100#36).toNat % 2 ^ 32 := by
  refine ⟨⟨rfl, rfl⟩, ?_⟩
  decide +kernel

/-- The five verdicts: 11 bytes; 12 bytes with a length of 1; a non-letter; a wrong checksum; a good frame. -/
theorem witness_DecEnd :
    Ready .dec decoded ∧
    (decoding 0x52755374 1 11 0x4E2FF8A2 0x0000B1D0).cnt.toNat < 12 ∧
    (12 ≤ (decoding 0x52755374 1 12 0 0).cnt.toNat
      ∧ (decoding 0x52755374 1 12 0 0).cnt.toNat ≠ (decoding 0x52755374 1 12 0 0).len.toNat + 12) ∧
    ((decoding 0x52753174 0 12 0 0).cnt.toNat = (decoding 0x52753174 0 12 0 0).len.toNat + 12
      ∧ lettersOk (decoding 0x52753174 0 12 0 0).idr = false) ∧
    (decoded.cnt.toNat = decoded.len.toNat + 12 ∧ lettersOk decoded.idr = true
      ∧ ({ decoded with ckr := 0xB1D0075C#32 } : State).ckr ≠ decoded.crc ^^^ 0xFFFFFFFF#32) ∧
    decoded.ckr = decoded.crc ^^^ 0xFFFFFFFF#32 ∧
    (inMode .idle).mode ≠ .dec ∧ (0x900000001#36).toNat / 2 ^ 32 = 9 ∧ (0x900000001#36).toNat % 2 ^ 32 ≠ 0 := by
  refine ⟨⟨rfl, rfl⟩, ?_⟩
  decide +kernel

/-- An idle state that differs from the one a decode begins in, in every register. -/
def worn : State := { loaded with len := 1, cnt := 13, crc := 0x4E2FF8A2, ckr := 0xB1D0075D }

/-- Steps that change each of the registers: `MODE`, `IDR`, `IDV`, `LEN`, `CNT`, `CRC`, `CKR` by one `DEC_START`, `ERR` by a
failing `ID_LOAD`, `FAULT` by a `CRC_END` out of sequence. -/
theorem witness_OnlyWritersChangeARegister :
    exec .decStart worn = .next (inMode .dec) ∧ worn.mode ≠ .dec ∧ worn.idr ≠ 0 ∧ worn.idv ≠ false ∧ worn.len ≠ 0
      ∧ worn.cnt ≠ 0 ∧ worn.crc ≠ (inMode .dec).crc ∧ worn.ckr ≠ 0 ∧
    exec (.idLoad 0#32) State.reset
      = .next { State.reset with err := .invalidByte, pending := [.done .invalidByte 0#32] } ∧
    exec .crcEnd State.reset = .next { State.reset with fault := .protocol } :=
  ⟨next_of (by decide), by decide, by decide, by decide, by decide, by decide, by decide, by decide, next_of (by decide),
    next_of (by decide)⟩

theorem witness_ModeChangesOnlyAsListed :
    step (given (.cmd 0x700000000#36) State.reset) = .next (inMode .dec) ∧ (inMode .dec).mode ≠ State.reset.mode ∧
    step (given .rst (inMode .enc)) = .next State.reset ∧ State.reset.mode ≠ (inMode .enc).mode :=
  ⟨next_of (by decide), by decide, next_of (by decide), by decide⟩

theorem witness_DoneIsLastAndSetsErr :
    exec .nop State.reset = .next State.reset ∧
    exec (.encStart 0#32) State.reset
      = .next { State.reset with err := .invalidIdentifier, pending := [] ++ [] ++ [.done .invalidIdentifier 0#32] } :=
  ⟨next_of (by decide), next_of (by decide)⟩

/-- Each of the six rows of R201: `DEC_END` four times (`TRUNCATED` at its largest count, 11), `ENC_START`, `ID_LOAD`. -/
theorem witness_FailureCodesHaveTheirCauses :
    exec .decEnd (decoding 0 0 11 0 0) = .next { decoding 0 0 11 0 0 with
      mode := .idle, err := .truncated, pending := [] ++ [] ++ [.done .truncated 0#32] } ∧
    exec .decEnd (decoding 0 0 13 0 0) = .next { decoding 0 0 13 0 0 with
      mode := .idle, err := .lengthMismatch, pending := [] ++ [] ++ [.done .lengthMismatch 0#32] } ∧
    exec .decEnd (decoding 0 0 12 0 0) = .next { decoding 0 0 12 0 0 with
      mode := .idle, err := .invalidIdentifier, pending := [] ++ [] ++ [.done .invalidIdentifier 0#32] } ∧
    exec .decEnd (decoding 0x49454E44 0 12 0x51BD9F7D 0) = .next { decoding 0x49454E44 0 12 0x51BD9F7D 0 with
      mode := .idle, err := .checksumMismatch, pending := [] ++ [] ++ [.done .checksumMismatch 0#32] } ∧
    exec (.encStart 3#32) State.reset = .next { State.reset with
      err := .invalidIdentifier, pending := [] ++ [] ++ [.done .invalidIdentifier 0#32] } ∧
    exec (.idLoad 0x40414141#32) State.reset = .next { State.reset with
      idr := 0x40414141#32, err := .invalidByte, pending := [] ++ [] ++ [.done .invalidByte 0#32] } :=
  ⟨next_of (by decide +kernel), next_of (by decide +kernel), next_of (by decide +kernel), next_of (by decide +kernel),
    next_of (by decide +kernel), next_of (by decide +kernel)⟩

theorem witness_EventStreamOnlyGrows :
    step { given .evtReady State.reset with pending := [.pay 0x21#8] } = .next { State.reset with taken := [.pay 0x21#8] }
      ∧ ¬ ∃ rest, (given .evtReady State.reset).inputs = .rst :: rest :=
  ⟨next_of (by decide), fun ⟨_, h⟩ => by cases h⟩

theorem witness_StepKeepsTheInvariants :
    Inv (encoding 1 0 0x2B7BF6C3) ∧ step (given (.cmd 0#36) (encoding 1 0 0x2B7BF6C3))
      = .next (encoding 1 0 0x2B7BF6C3) :=
  ⟨witness_inv.1, next_of (by decide)⟩

theorem witness_FlagPins : State.reset.idv = false ∧ Inv loaded ∧ loaded.idv = true :=
  ⟨rfl, witness_inv.2.2.2.1, rfl⟩

theorem witness_CaseBitOfALetter :
    isLetter 0x41#8 = true ∧ isLetter 0x5A#8 = true ∧ isLetter 0x61#8 = true ∧ isLetter 0x7A#8 = true
      ∧ isLetter 0x40#8 = false ∧ isLetter 0x5B#8 = false ∧ isLetter 0x60#8 = false ∧ isLetter 0x7B#8 = false := by
  decide

theorem witness_CrcStepIsABijection :
    crcStep 0xFFFFFFFF#32 0x61#8 = 0x174841BC#32 ∧ crcStep 0xFFFFFFFF#32 0x00#8 ≠ crcStep 0xFFFFFFFF#32 0x01#8 := by
  decide +kernel

theorem witness_OneByteChanged : (0x21#8) ≠ 0x20#8 := by decide

theorem witness_ParseOfSerialize : lettersOk 0x52755374#32 = true ∧ [0x21#8].length < 2 ^ 32 := by decide

/-- The frame of TE2: a bit of the length, of the identifier to a non-letter (TD9) and to a letter (TD10), of the payload
(TD11) and of the checksum's last byte (TD12). -/
theorem witness_OneFlippedBitIsRefused :
    parse goodFrame = .ok (0x52755374#32, [0x21#8]) ∧ goodFrame.length = 13 ∧
    (4 ≤ 4 ∧ 4 < 8 ∧ isLetter (goodFrame.getD 4 0#8 ^^^ (1#8 <<< 6)) = false) ∧
    (4 ≤ 7 ∧ 7 < 8 ∧ isLetter (goodFrame.getD 7 0#8 ^^^ (1#8 <<< 5)) = true) ∧
    flipBit goodFrame 3 0 = [0, 0, 0, 0, 0x52, 0x75, 0x53, 0x74, 0x21, 0xB1, 0xD0, 0x07, 0x5D] ∧
    (8 ≤ 8 ∧ 8 ≤ 12 ∧ 12 < goodFrame.length) := by
  decide +kernel

theorem witness_IdLoadComputesTheParse :
    Ready .idle (given (.cmd 0x152755374#36) State.reset) ∧
    (given (.cmd 0x152755374#36) State.reset).inputs = handedOver (identMacro 0x52755374#32) ++ [] :=
  ⟨⟨rfl, rfl⟩, by decide⟩

/-- Vector TK4: a `NOP` in the checksum of no bytes. -/
theorem witness_ChecksumRunComputesCrc32 :
    [Instr.crcStart, .nop, .crcEnd].filter (· ≠ .nop) = crc32Macro [] ∧
    ({ State.reset with inputs := [.cmd 0x200000000#36, .cmd 0#36, .cmd 0x400000000#36] } : State).inputs
      = handedOver [.crcStart, .nop, .crcEnd] ++ [] := by
  decide

/-- Vectors TE1 and TE2: an empty payload and one byte. -/
theorem witness_EncodeRunComputesSerialize :
    lettersOk 0x49454E44#32 = true ∧ lettersOk 0x52755374#32 = true ∧
    ({ State.reset with inputs := [.cmd 0x149454E44#36, .cmd 0x500000000#36] } : State).inputs
      = handedOver (encodeMacro 0x49454E44#32 []) ++ [] ∧
    ({ State.reset with inputs := [.cmd 0x152755374#36, .cmd 0x500000001#36, .cmd 0x600000021#36] } : State).inputs
      = handedOver (encodeMacro 0x52755374#32 [0x21#8]) ++ [] := by
  decide

theorem witness_EncodeInProgress :
    Ready .idle loaded ∧ loaded.idv = true ∧ ([] : List Byte).length < (1#32).toNat ∧
    ({ loaded with inputs := [.cmd 0x500000001#36] } : State).inputs
      = handedOver (.encStart 1#32 :: ([] : List Byte).map .encByte) ++ [] :=
  ⟨⟨rfl, rfl⟩, rfl, by decide, by decide⟩

theorem witness_DecodeInProgress :
    Ready .idle worn ∧ ({ worn with inputs := [.cmd 0x700000000#36, .cmd 0x8000000FF#36] } : State).inputs
      = handedOver (.decStart :: [0xFF#8].map .decByte) ++ [] :=
  ⟨⟨rfl, rfl⟩, by decide⟩

/-- Vector TD3, the empty slice. -/
theorem witness_DecodeRunComputesParse :
    Ready .idle State.reset ∧ ({ State.reset with inputs := [.cmd 0x700000000#36, .cmd 0x900000000#36] } : State).inputs
      = handedOver (decodeMacro []) ++ [] :=
  ⟨⟨rfl, rfl⟩, by decide⟩

/-- Two idle states that agree on `IDR` and `IDV` only, and one `ENC_START 0`. -/
theorem witness_OperationsAreIndependent :
    Ready .idle loaded ∧ Ready .idle worn ∧ loaded.idr = worn.idr ∧ loaded.idv = worn.idv ∧
    (given (.cmd 0x500000000#36) loaded).inputs = [0x500000000#36].map Input.cmd ∧
    (given (.cmd 0x500000000#36) worn).inputs = [0x500000000#36].map Input.cmd ∧ loaded.crc ≠ worn.crc :=
  ⟨⟨rfl, rfl⟩, ⟨rfl, rfl⟩, rfl, rfl, rfl, rfl, by decide⟩

/-- A container of no chunk, of one chunk, and of one chunk before the terminal one, whatever the terminal identifier is:
of two words of letters one is not it. -/
theorem witness_ContainerRoundTrip :
    ParsableChunks [] ∧ ParsableChunks [⟨0x52755374#32, [0x21#8]⟩] ∧
    (∃ id, ParsableChunks [⟨id, [0x21#8]⟩, ⟨0x49454E44#32, []⟩]) := by
  refine ⟨trivial, ⟨by decide, by decide⟩, ?_⟩
  by_cases h : 0x52755374#32 = terminalId
  · exact ⟨0x54655374#32, by decide, by decide, by rw [← h]; decide, by decide, by decide⟩
  · exact ⟨0x52755374#32, by decide, by decide, h, by decide, by decide⟩

theorem witness_RemoveTakesTheFirstMatch :
    removeByIdentifier 1#32 [⟨0#32, []⟩, ⟨1#32, [0x21#8]⟩, ⟨1#32, []⟩] = .ok (⟨1#32, [0x21#8]⟩, [⟨0#32, []⟩, ⟨1#32, []⟩]) ∧
    (∀ d ∈ [(⟨0#32, []⟩ : Chunk)], d.identifier ≠ 1#32) ∧ (∃ d ∈ [(⟨1#32, []⟩ : Chunk)], d.identifier = 1#32) := by
  decide +kernel

/-- No chunk, one that is the terminal one, and one whose identifier is another. -/
theorem witness_AppendGoesBeforeTheTerminalChunk :
    (∀ d ∈ ([] : List Chunk), d.identifier ≠ terminalId) ∧
    (⟨terminalId, []⟩ : Chunk).identifier = terminalId ∧
    (∀ d ∈ [(⟨0x54655374#32, []⟩ : Chunk)], d.identifier ≠ (⟨0x52755374#32, []⟩ : Chunk).identifier) :=
  ⟨by simp, rfl, by decide⟩

/-- The terminal chunk alone is finished and parsable, with bytes after it or none. -/
theorem witness_FinishedContainers :
    finished [⟨terminalId, []⟩] = true ∧ serializable ([] : List Byte) = true ∧ ParsableChunks [⟨terminalId, []⟩] := by
  refine ⟨by simp [finished, terminalChunk], by decide, ?_, by decide⟩
  rw [terminalId, Sys2Proof.Laws.lettersOk_letterBytes]

theorem witness_PinsShowTheRegisters :
    step (given (.cmd 0x200000000#36) { State.reset with cnt := 1#33 }) = .next (inMode .crc) ∧
    ¬ SameRegisters { State.reset with cnt := 1#33 } (inMode .crc) :=
  ⟨next_of (by decide), fun h => by have := h.1; revert this; decide⟩

/-- The 52 letters in order, at the ends of the two ranges. -/
theorem test_letter_byte :
    letterByte 0 = 0x41#8 ∧ letterByte 25 = 0x5A#8 ∧ letterByte 26 = 0x61#8 ∧ letterByte 51 = 0x7A#8 := by
  decide

/-- The numbers of R200 and R21, R22 on the pins: `INVALID_BYTE` 5 (vector TI12), `DEC` 2 and `ENC` 3, `PROTOCOL` 2. -/
theorem test_pins :
    (pinsOf { State.reset with err := .invalidByte }).err = 5#4 ∧ (pinsOf (inMode .dec)).mode = 2#2 ∧
    (pinsOf (inMode .enc)).mode = 3#2 ∧ (pinsOf faulted).fault = 2#2 ∧
    (pinsOf { inMode .crc with crc := 0x7C231048#32 }).crcVal = 0x83DCEFB7#32 := by
  decide

end Sys2Proof.Tests
end

/-! ### The status pins and the registers (10_state.md) -/
section

namespace Sys2Proof.Machine

open Sys2Proof.Safety

/-- The number on the `err` pins and in an event's `code` field is the one R200 gives the code. -/
theorem resultBits_toNat (c : ResultCode) : (resultBits c).toNat = codeNumber c := by
  cases c <;> rfl

/-- R104: `IDV` masks each flag of `id_flags(IDR)`. -/
theorem flagPins_masked (s : State) :
    (flagPins s).isCritical = (s.idv && (idFlags s.idr).isCritical) ∧
    (flagPins s).isPublic = (s.idv && (idFlags s.idr).isPublic) ∧
    (flagPins s).isReservedBitValid = (s.idv && (idFlags s.idr).isReservedBitValid) ∧
    (flagPins s).isSafeToCopy = (s.idv && (idFlags s.idr).isSafeToCopy) ∧
    (flagPins s).isValid = (s.idv && (idFlags s.idr).isValid) := by
  cases h : s.idv <;> simp [flagPins, h]

/-- The pins of R35's table, with nothing on the event channel. -/
theorem pinsOf_reset : pinsOf State.reset =
    { mode := 0#2, fault := 0#2, err := 0#4, idr := 0#32, idv := false, len := 0#32, cnt := 0#33, crcVal := 0#32,
      ckr := 0#32, fCritical := false, fPublic := false, fReservedOk := false, fSafeToCopy := false, fValid := false,
      evt := none } := by
  decide

/-- A state has its own registers. -/
theorem sameRegisters_refl (s : State) : SameRegisters s s := ⟨rfl, rfl, rfl, rfl, rfl, rfl, rfl, rfl, rfl⟩

/-- Taking an event moves it between the port lists and writes no register (R75). -/
theorem takeEvent_sameRegisters (s : State) : SameRegisters s (takeEvent s) := by
  unfold takeEvent
  split <;> exact sameRegisters_refl s

/-- What a step that is neither an accepted word nor a reset does to the registers: nothing. -/
theorem step_sameRegisters_or_word_or_reset {s t : State} (h : step s = .next t) :
    SameRegisters s t ∨ ∃ rest, s.inputs = .rst :: rest ∨ ∃ w, s.inputs = .cmd w :: rest := by
  rcases step_cases s with ⟨-, hs⟩ | ⟨w, rest, -, hi, -⟩ | ⟨w, rest, -, hi, -⟩ | ⟨rest, -, hs⟩ | ⟨rest, hi, -⟩
  · obtain rfl : s = t := by simpa [hs] using h
    exact .inl (sameRegisters_refl s)
  · exact .inr ⟨rest, .inr ⟨w, hi⟩⟩
  · exact .inr ⟨rest, .inr ⟨w, hi⟩⟩
  · obtain rfl : takeEvent { s with inputs := rest } = t := by simpa [hs] using h
    exact .inl (takeEvent_sameRegisters { s with inputs := rest })
  · exact .inr ⟨rest, .inl hi⟩

/-- Settles O10: the registers by the definition of the reset state, the pins by `pinsOf_reset`. -/
theorem resetValuesAndPins : Obligations.ResetValuesAndPins := by
  unfold Obligations.ResetValuesAndPins
  rw [pinsOf_reset]
  simp [State.reset]

/-- Settles O48: the pins of `MODE` and `FAULT` by their values, the flag pins by `flagPins_masked`; the steps by
`step_sameRegisters_or_word_or_reset`. -/
theorem pinsShowTheRegisters : Obligations.PinsShowTheRegisters := by
  unfold Obligations.PinsShowTheRegisters
  refine ⟨fun s => ⟨?_, ?_, resultBits_toNat s.err, rfl, rfl, rfl, rfl, rfl, rfl, flagPins_masked s⟩, ?_⟩
  · change (modeBits s.mode).toNat = _
    cases s.mode <;> rfl
  · change (faultBits s.fault).toNat = _
    cases s.fault <;> rfl
  · intro s t h hne
    exact (step_sameRegisters_or_word_or_reset h).resolve_left hne

end Sys2Proof.Machine
end

/-! ### The command words and the event words (30_encoding.md) -/
section

namespace Sys2Proof

open Sys2Proof.Machine Sys2Proof.Safety

/-! #### The decoder, in the numbers of the word -/

/-- `op` as a number (R76). -/
theorem opOf_toNat (w : CmdWord) : (opOf w).toNat = w.toNat / 2 ^ 32 := by
  have hw := w.isLt
  simp only [opOf, BitVec.extractLsb'_toNat, Nat.shiftRight_eq_div_pow]
  omega

/-- `arg` as a number (R76). -/
theorem argOf_toNat (w : CmdWord) : (argOf w).toNat = w.toNat % 2 ^ 32 := by
  simp [argOf]

/-- The form without argument (R78). -/
theorem decodeNone_eq_ok {i j : Instr} {arg : Word} : decodeNone j arg = .ok i ↔ arg.toNat = 0 ∧ j = i := by
  have h0 : arg = 0 ↔ arg.toNat = 0 := BitVec.toNat_inj.symm
  simp only [decodeNone, h0]
  split <;> simp_all

/-- The byte form (R78): the argument is a byte's number. -/
theorem decodeByte_eq_ok {mk : Byte → Instr} {i : Instr} {arg : Word} :
    decodeByte mk arg = .ok i ↔ ∃ b : Byte, arg.toNat = b.toNat ∧ mk b = i := by
  have hl := arg.isLt
  have hhigh : arg.extractLsb' 8 24 = 0 ↔ arg.toNat < 256 := by
    rw [← BitVec.toNat_inj]
    simp only [BitVec.extractLsb'_toNat, Nat.shiftRight_eq_div_pow, BitVec.ofNat_eq_ofNat, BitVec.toNat_ofNat]
    omega
  have hlow : (arg.extractLsb' 0 8).toNat = arg.toNat % 256 := by simp
  simp only [decodeByte, hhigh]
  constructor
  · intro h
    split at h
    · next hlt => exact ⟨_, by omega, Except.ok.inj h⟩
    · cases h
  · rintro ⟨b, hb, rfl⟩
    have hb' : arg.extractLsb' 0 8 = b := BitVec.eq_of_toNat_eq (by omega)
    rw [if_pos (by omega), hb']

/-- The decoder's specification: an instruction is decoded from exactly the word that has its opcode and its argument
in the two fields of R76. -/
theorem decode_eq_ok_iff {w : CmdWord} {i : Instr} :
    decode w = .ok i ↔ w.toNat / 2 ^ 32 = i.opArg.1 ∧ w.toNat % 2 ^ 32 = i.opArg.2 := by
  rw [← opOf_toNat, ← argOf_toNat]
  constructor
  · intro h
    unfold decode at h
    -- case `h_(op + 1)` is opcode `op`, by its form; `h_11` the reserved ones
    split at h
    case h_1 ho | h_3 ho | h_5 ho | h_8 ho | h_10 ho =>
      obtain ⟨ha, rfl⟩ := decodeNone_eq_ok.1 h
      exact ⟨ho, ha⟩
    case h_2 ho | h_6 ho =>
      obtain rfl := Except.ok.inj h
      exact ⟨ho, rfl⟩
    case h_4 ho | h_7 ho | h_9 ho =>
      obtain ⟨b, ha, rfl⟩ := decodeByte_eq_ok.1 h
      exact ⟨ho, ha⟩
    case h_11 => cases h
  · rintro ⟨ho, ha⟩
    unfold decode
    cases i with
    | nop | crcStart | crcEnd | decStart | decEnd =>
      rw [ho]
      exact decodeNone_eq_ok.2 ⟨ha, rfl⟩
    | idLoad v | encStart v =>
      rw [ho, BitVec.eq_of_toNat_eq ha]
      rfl
    | crcByte b | encByte b | decByte b =>
      rw [ho]
      exact decodeByte_eq_ok.2 ⟨b, ha, rfl⟩

/-- Every opcode of the map, with an argument its form admits, is an instruction's (R77, R78). -/
theorem exists_instr_opArg {op arg : Nat} {f : ArgForm} (hf : argFormOfOp op = some f) (ha : f.admits arg = true)
    (hl : arg < 2 ^ 32) : ∃ i : Instr, i.opArg = (op, arg) := by
  have hnone : ArgForm.none.admits arg = true → arg = 0 := by simp [ArgForm.admits]
  have hbyte : ArgForm.byte.admits arg = true → (BitVec.ofNat 8 arg).toNat = arg := by
    simp [ArgForm.admits]
  have hword : (BitVec.ofNat 32 arg).toNat = arg := by
    rw [BitVec.toNat_ofNat, Nat.mod_eq_of_lt hl]
  unfold argFormOfOp at hf
  split at hf <;> cases hf
  · exact ⟨.nop, by rw [hnone ha]; rfl⟩
  · exact ⟨.idLoad (BitVec.ofNat 32 arg), by rw [Instr.opArg, hword]⟩
  · exact ⟨.crcStart, by rw [hnone ha]; rfl⟩
  · exact ⟨.crcByte (BitVec.ofNat 8 arg), by rw [Instr.opArg, hbyte ha]⟩
  · exact ⟨.crcEnd, by rw [hnone ha]; rfl⟩
  · exact ⟨.encStart (BitVec.ofNat 32 arg), by rw [Instr.opArg, hword]⟩
  · exact ⟨.encByte (BitVec.ofNat 8 arg), by rw [Instr.opArg, hbyte ha]⟩
  · exact ⟨.decStart, by rw [hnone ha]; rfl⟩
  · exact ⟨.decByte (BitVec.ofNat 8 arg), by rw [Instr.opArg, hbyte ha]⟩
  · exact ⟨.decEnd, by rw [hnone ha]; rfl⟩

/-- A word decodes exactly when it is a defined encoding (R79): a decoded instruction is well formed, and the decoder
misses no opcode with an argument its form admits. -/
theorem decodes_iff_definedEncoding (w : CmdWord) : (∃ i, decode w = .ok i) ↔ definedEncoding w = true := by
  constructor
  · rintro ⟨i, hi⟩
    obtain ⟨ho, ha⟩ := decode_eq_ok_iff.1 hi
    rw [definedEncoding, ho, ha]
    exact Laws.wellFormed_true i
  · intro h
    unfold definedEncoding at h
    split at h
    · next f hf =>
      obtain ⟨i, hi⟩ := exists_instr_opArg hf h (Nat.mod_lt _ (by decide))
      exact ⟨i, decode_eq_ok_iff.2 (by rw [hi]; exact ⟨rfl, rfl⟩)⟩
    · cases h

/-! #### The rows of the opcode table -/

/-- How many low bits of the argument a form leaves free (R78). -/
def ArgForm.freeBits : ArgForm → Nat
  | .none => 0
  | .byte => 8
  | .word => 32

/-- The bits a form leaves free say which arguments it admits. -/
theorem admits_iff_lt_two_pow (f : ArgForm) {arg : Nat} (h : arg < 2 ^ 32) :
    f.admits arg = true ↔ arg < 2 ^ f.freeBits := by
  cases f with
  | none => simp [ArgForm.admits, ArgForm.freeBits]
  | byte => simp [ArgForm.admits, ArgForm.freeBits]
  | word => exact iff_of_true rfl h

/-- A row is that of an opcode: its pattern has the opcode and no argument bit, and its mask has every bit that the
form of the opcode does not leave free. -/
def OpcodeRow.IsOf (r : OpcodeRow) (op : Nat) (f : ArgForm) : Prop :=
  r.pattern = cmdWord op 0 ∧ r.mask = BitVec.allOnes 36 <<< f.freeBits

/-- The row at a place of the table. -/
def rowAt (k : Fin 10) : OpcodeRow := opcodeTable[k]

/-- The table is its ten rows, in order. -/
theorem opcodeTable_eq_map_rowAt : opcodeTable = (List.finRange 10).map rowAt := by
  decide

/-- The row at each place of the table is that of the opcode of that number. -/
theorem rowAt_isOf (k : Fin 10) : ∃ f, argFormOfOp k = some f ∧ (rowAt k).IsOf k f := by
  match k with
  | 0 | 2 | 4 | 7 | 9 => exact ⟨.none, rfl, rfl, rfl⟩
  | 1 | 5 => exact ⟨.word, rfl, rfl, rfl⟩
  | 3 | 6 | 8 => exact ⟨.byte, rfl, rfl, rfl⟩

/-- Under a row's mask a word equals the row's pattern exactly when it has the row's opcode and an admitted argument. -/
theorem and_mask_eq_pattern_iff {r : OpcodeRow} {op : Nat} {f : ArgForm} (h : r.IsOf op f) (hop : op < 16)
    (w : CmdWord) :
    w &&& r.mask = r.pattern ↔ w.toNat / 2 ^ 32 = op ∧ f.admits (w.toNat % 2 ^ 32) = true := by
  obtain ⟨hp, hm⟩ := h
  have hw := w.isLt
  have hl : (w >>> f.freeBits <<< f.freeBits).toNat = w.toNat / 2 ^ f.freeBits * 2 ^ f.freeBits := by
    rw [BitVec.toNat_shiftLeft, BitVec.toNat_ushiftRight, Nat.shiftRight_eq_div_pow, Nat.shiftLeft_eq]
    exact Nat.mod_eq_of_lt ((Nat.div_mul_le_self _ _).trans_lt hw)
  have hr : (cmdWord op 0).toNat = op * 2 ^ 32 := by simpa using Laws.EncodedWord.cmdWord_toNat hop 0
  rw [hp, hm, ← BitVec.shiftLeft_ushiftRight, ← BitVec.toNat_inj, hl, hr,
    admits_iff_lt_two_pow f (Nat.mod_lt _ (by decide))]
  cases f <;> simp only [ArgForm.freeBits] <;> omega

/-- The row at place `k` of the table holds of exactly the defined encodings with opcode `k` (R79). -/
theorem and_mask_eq_pattern_iff_op (w : CmdWord) (k : Fin 10) :
    w &&& (rowAt k).mask = (rowAt k).pattern ↔
      w.toNat / 2 ^ 32 = k ∧ definedEncoding w = true := by
  obtain ⟨f, hf, hrow⟩ := rowAt_isOf k
  rw [and_mask_eq_pattern_iff hrow (by omega)]
  refine and_congr_right fun ho => ?_
  rw [definedEncoding, ho, hf]

/-- Only ten opcodes have instructions (R77). -/
theorem opArg_fst_lt (i : Instr) : i.opArg.1 < 10 := by
  cases i <;> simp [Instr.opArg]

/-- An instruction's mnemonic stands in the row of its opcode (R77). -/
theorem mnemonicOf_eq_rowAt (i : Instr) : mnemonicOf i = (rowAt ⟨i.opArg.1, opArg_fst_lt i⟩).mnemonic := by
  cases i <;> rfl

/-- The ten mnemonics differ. -/
theorem rowAt_mnemonic_injective : ∀ k l : Fin 10, (rowAt k).mnemonic = (rowAt l).mnemonic → k = l := by
  decide

/-- The mnemonic of a row is that of the instructions with the row's opcode. -/
theorem mnemonicOf_eq_iff (i : Instr) (k : Fin 10) : mnemonicOf i = (rowAt k).mnemonic ↔ i.opArg.1 = k := by
  rw [mnemonicOf_eq_rowAt]
  constructor
  · intro h
    exact congrArg Fin.val (rowAt_mnemonic_injective _ _ h)
  · intro h
    exact congrArg (fun k => (rowAt k).mnemonic) (Fin.ext h)

/-- Each row holds of exactly its command's words (R79). -/
theorem and_mask_eq_pattern_iff_decodes (w : CmdWord) (k : Fin 10) :
    w &&& (rowAt k).mask = (rowAt k).pattern ↔
      ∃ i, decode w = .ok i ∧ mnemonicOf i = (rowAt k).mnemonic := by
  rw [and_mask_eq_pattern_iff_op, ← decodes_iff_definedEncoding]
  constructor
  · rintro ⟨ho, i, hi⟩
    exact ⟨i, hi, (mnemonicOf_eq_iff i k).2 ((decode_eq_ok_iff.1 hi).1.symm.trans ho)⟩
  · rintro ⟨i, hi, hm⟩
    exact ⟨(decode_eq_ok_iff.1 hi).1.trans ((mnemonicOf_eq_iff i k).1 hm), i, hi⟩

/-- The rows are disjoint: of a defined encoding the row of its opcode holds and no other, of any other word none. -/
theorem opcodeTable_filter_length (w : CmdWord) :
    (opcodeTable.filter (matchesRow w)).length = if definedEncoding w then 1 else 0 := by
  rw [opcodeTable_eq_map_rowAt, ← List.countP_eq_length_filter, List.countP_map]
  split
  · next hd =>
    obtain ⟨i, hi⟩ := (decodes_iff_definedEncoding w).2 hd
    have hop : w.toNat / 2 ^ 32 < 10 := (decode_eq_ok_iff.1 hi).1 ▸ opArg_fst_lt i
    rw [← List.count_finRange (⟨w.toNat / 2 ^ 32, hop⟩ : Fin 10)]
    refine List.countP_congr fun k _ => ?_
    rw [Function.comp_apply, matchesRow, beq_iff_eq, and_mask_eq_pattern_iff_op, beq_iff_eq, Fin.ext_iff]
    exact ⟨fun h => h.1.symm, fun h => ⟨h.symm, hd⟩⟩
  · next hd =>
    refine List.countP_eq_zero.2 fun k _ hk => hd ?_
    rw [Function.comp_apply, matchesRow, beq_iff_eq, and_mask_eq_pattern_iff_op] at hk
    exact hk.2

/-! #### Illegal words -/

/-- Test 2 of R190: an accepted word that does not decode, on a block that is not faulted. -/
theorem step_undecodable {s : State} {w : CmdWord} {rest : List Input} (hi : s.inputs = .cmd w :: rest)
    (hf : s.fault = .noFault) (hd : ¬ ∃ i, decode w = .ok i) :
    step s = .next { s with inputs := rest, fault := .illegalCmd } := by
  match h : decode w with
  | .ok i => exact absurd ⟨i, h⟩ hd
  | .error e => simp [step, nextTransaction, acceptWord, illegalWord, takeFault, hi, h, hf]

/-- Settles O3: the decoder by `decode_eq_ok_iff`, the table by the opcode at each place of it. -/
theorem definedEncodingsAndIllegalWords : Obligations.DefinedEncodingsAndIllegalWords := by
  unfold Obligations.DefinedEncodingsAndIllegalWords
  refine ⟨decodes_iff_definedEncoding, ?_, opcodeTable_filter_length, ?_, decode_eq_ok_iff.2 ⟨rfl, rfl⟩⟩
  · intro w r hr
    rw [opcodeTable_eq_map_rowAt] at hr
    obtain ⟨k, -, rfl⟩ := List.mem_map.1 hr
    exact and_mask_eq_pattern_iff_decodes w k
  · intro w s rest hbad hi hf
    refine step_undecodable hi hf fun hd => ?_
    rw [(decodes_iff_definedEncoding w).1 hd] at hbad
    cases hbad

/-! #### The event words -/

/-- An event word as a number, by its three fields (R80). -/
theorem eventFields_toNat (kind : BitVec 2) (code : BitVec 4) (data : Word) :
    ((kind ++ code : BitVec 6) ++ data).toNat = kind.toNat * 2 ^ 36 + code.toNat * 2 ^ 32 + data.toNat := by
  rw [BitVec.toNat_append, BitVec.toNat_append, ← Nat.shiftLeft_add_eq_or_of_lt code.isLt,
    ← Nat.shiftLeft_add_eq_or_of_lt data.isLt, Nat.shiftLeft_eq, Nat.shiftLeft_eq]
  omega

/-- `PAY(b)`: kind 0, code 0 (R80). -/
@[simp] theorem eventWord_pay_toNat (b : Byte) : (eventWord (.pay b)).toNat = b.toNat := by
  rw [eventWord, eventFields_toNat, ← byteArg, Laws.EncodedWord.byteArg_toNat]
  simp

/-- `OUT(b)`: kind 1, code 0 (R80). -/
@[simp] theorem eventWord_out_toNat (b : Byte) : (eventWord (.out b)).toNat = 2 ^ 36 + b.toNat := by
  rw [eventWord, eventFields_toNat, ← byteArg, Laws.EncodedWord.byteArg_toNat]
  rfl

/-- `DONE(code, val)`: kind 2 (R80). -/
@[simp] theorem eventWord_done_toNat (c : ResultCode) (v : Word) :
    (eventWord (.done c v)).toNat = 2 * 2 ^ 36 + codeNumber c * 2 ^ 32 + v.toNat := by
  rw [eventWord, eventFields_toNat, resultBits_toNat]
  rfl

/-- The `kind` of an event, as a number (R80). -/
def kindNumber : Event → Nat
  | .pay _ => 0
  | .out _ => 1
  | .done _ _ => 2

/-- A code fits in the four bits of the `code` field (R200). -/
theorem codeNumber_lt (c : ResultCode) : codeNumber c < 16 := resultBits_toNat c ▸ (resultBits c).isLt

/-- The two upper bits of an event word are its kind. -/
theorem eventWord_div_eq_kindNumber (e : Event) : (eventWord e).toNat / 2 ^ 36 = kindNumber e := by
  cases e with
  | pay b => have := b.isLt; rw [eventWord_pay_toNat, kindNumber]; omega
  | out b => have := b.isLt; rw [eventWord_out_toNat, kindNumber]; omega
  | done c v =>
    have := v.isLt
    have := codeNumber_lt c
    rw [eventWord_done_toNat, kindNumber]
    omega

/-- Two codes with one number are one code: the number is the code's place in R200. -/
theorem codeNumber_injective : Function.Injective codeNumber :=
  Function.LeftInverse.injective (g := ResultCode.ofNat) fun c => by cases c <;> rfl

/-- Two events with one word are one event: the word gives the kind, and then each field. -/
theorem eventWord_injective : Function.Injective eventWord := by
  intro e e' h
  have hn : (eventWord e).toNat = (eventWord e').toNat := congrArg _ h
  have hk : kindNumber e = kindNumber e' := by
    rw [← eventWord_div_eq_kindNumber, ← eventWord_div_eq_kindNumber, hn]
  match e, e', hk with
  | .pay b, .pay b', _ =>
    rw [eventWord_pay_toNat, eventWord_pay_toNat] at hn
    rw [BitVec.eq_of_toNat_eq hn]
  | .out b, .out b', _ =>
    rw [eventWord_out_toNat, eventWord_out_toNat] at hn
    rw [BitVec.eq_of_toNat_eq (Nat.add_left_cancel hn)]
  | .done c v, .done c' v', _ =>
    have := v.isLt
    have := v'.isLt
    rw [eventWord_done_toNat, eventWord_done_toNat] at hn
    rw [codeNumber_injective (show codeNumber c = codeNumber c' by omega),
      BitVec.eq_of_toNat_eq (show v.toNat = v'.toNat by omega)]

/-- Settles O30: the numbers of the three kinds of event word, and what they say of the kind and of the event. -/
theorem eventWordFields : Obligations.EventWordFields := by
  unfold Obligations.EventWordFields
  refine ⟨eventWord_pay_toNat, eventWord_out_toNat, eventWord_done_toNat, fun e => ?_,
    fun _ _ h => eventWord_injective h⟩
  rw [eventWord_div_eq_kindNumber]
  cases e <;> simp [kindNumber]

end Sys2Proof
end

/-! ### The identifier unit (40_identifier.md) -/
section

namespace Sys2Proof.Machine

open Sys2Proof.Safety

/-- Byte 0 stands in bits 31:24 (R24), so the case bits of R103 are bits 29, 21, 13 and 5 of the word. -/
theorem caseBit_eq_getLsbD {i : Nat} (h : i < 4) (w : Word) : caseBit i w = w.getLsbD (29 - 8 * i) := by
  have hbit : 24 - 8 * i + 5 = 29 - 8 * i := by omega
  simp [caseBit, wordByte, hbit]

/-- R103 over the bits of the word. -/
theorem idFlags_of_lettersOk {w : Word} (h : lettersOk w = true) :
    idFlags w =
      { isCritical := !w.getLsbD 29, isPublic := !w.getLsbD 21, isReservedBitValid := !w.getLsbD 13,
        isSafeToCopy := w.getLsbD 5, isValid := !w.getLsbD 13 } := by
  simp [idFlags, h, caseBit_eq_getLsbD]

/-- A command whose row of R191 has no mode but `m` takes `PROTOCOL` in every other (R190, test 3). -/
theorem takesProtocolOutside_of_allowedIn {i : Instr} {m : Mode} (h : ∀ m', allowedIn i m' = true → m' = m) :
    TakesProtocolOutside i m := by
  intro s hf hm
  have hno : allowedIn i s.mode = false := Bool.eq_false_iff.2 fun ha => hm (h _ ha)
  rw [exec_eq_guarded, guarded_outOfMode hf hno, takeFault]

/-- Settles O12: the two branches of `idLoadEffect`, the flags word by `idFlags_of_lettersOk`. -/
theorem idLoadParsesAnIdentifier : Obligations.IdLoadParsesAnIdentifier := by
  unfold Obligations.IdLoadParsesAnIdentifier
  have hexec {w : Word} {s : State} (hf : s.fault = .noFault) (hm : s.mode = .idle) :
      exec (.idLoad w) s = .next (idLoadEffect w s) := exec_allowed hf (by rw [hm]; rfl)
  refine ⟨Laws.EncodedWord.cmdWord_toNat (by decide), ?_, ?_, ?_⟩
  · intro w s hf hm hw
    rw [hexec hf hm, idLoadEffect, if_pos hw, idFlags_of_lettersOk hw]
    rfl
  · intro w s hf hm hw
    rw [hexec hf hm, idLoadEffect, if_neg (by simp [hw])]
    rfl
  · exact fun w => takesProtocolOutside_of_allowedIn fun _ => eq_of_beq

/-- Settles O29: `flagPins_masked`, and with an Identifier the four letters of R34 item 1. -/
theorem flagPinsShowTheCaseBits : Obligations.FlagPinsShowTheCaseBits := by
  unfold Obligations.FlagPinsShowTheCaseBits
  constructor
  · intro s hv
    simp [pinsOf, flagPins_masked, hv]
  · intro s hinv hv
    have hflags := idFlags_of_lettersOk (hinv.idv_letters hv)
    simp [pinsOf, flagPins_masked, hv, hflags]

end Sys2Proof.Machine
end

/-! ### The checksum unit (41_crc.md) -/
section

namespace Sys2Proof.Machine

open Sys2Proof.Safety

/-! #### Words of a known opcode that are no defined encoding -/

/-- Words that are no defined encodings take `ILLEGAL_CMD` (R190, test 2), whichever bits make them so. -/
theorem takesIllegalCmd_of_undefined {bad : CmdWord → Prop} (h : ∀ w, bad w → definedEncoding w = false) :
    TakesIllegalCmd bad := by
  intro w s rest hw hi hf
  refine step_undecodable hi hf fun hd => ?_
  exact Bool.eq_false_iff.1 (h w hw) ((decodes_iff_definedEncoding w).1 hd)

/-- A command without argument, with an argument bit set (R78, R79). -/
theorem takesIllegalCmd_argNotZero {op : Nat} (hop : argFormOfOp op = some .none) :
    TakesIllegalCmd fun w => w.toNat / 2 ^ 32 = op ∧ w.toNat % 2 ^ 32 ≠ 0 := by
  refine takesIllegalCmd_of_undefined fun w ⟨ho, ha⟩ => ?_
  rw [definedEncoding, ho, hop]
  exact beq_false_of_ne ha

/-- A byte command whose argument is above every byte (R78, R79). -/
theorem takesIllegalCmd_argAboveByte {op : Nat} (hop : argFormOfOp op = some .byte) :
    TakesIllegalCmd fun w => w.toNat / 2 ^ 32 = op ∧ 256 ≤ w.toNat % 2 ^ 32 := by
  refine takesIllegalCmd_of_undefined fun w ⟨ho, ha⟩ => ?_
  rw [definedEncoding, ho, hop]
  exact decide_eq_false ha.not_gt

/-! #### The three commands -/

/-- Settles O13: the effect of R125 in the one mode that allows it. -/
theorem crcStartBeginsAChecksum : Obligations.CrcStartBeginsAChecksum := by
  unfold Obligations.CrcStartBeginsAChecksum
  refine ⟨rfl, ?_, takesProtocolOutside_of_allowedIn fun _ => eq_of_beq, takesIllegalCmd_argNotZero rfl⟩
  intro s hf hm
  exact exec_allowed hf (by rw [hm]; rfl)

/-- Settles O14: the effect of R126, its saturating count the minimum of `sat33_eq_min`. -/
theorem crcByteFeedsOneByte : Obligations.CrcByteFeedsOneByte := by
  unfold Obligations.CrcByteFeedsOneByte
  refine ⟨?_, ?_, fun _ => takesProtocolOutside_of_allowedIn fun _ => eq_of_beq, takesIllegalCmd_argAboveByte rfl⟩
  · intro b
    rw [encode, Laws.EncodedWord.cmdWord_toNat (by decide), Laws.EncodedWord.byteArg_toNat]
    omega
  · intro b s hf hm
    have hexec : exec (.crcByte b) s = .next (crcByteEffect b s) := exec_allowed hf (by rw [hm]; rfl)
    rw [hexec, crcByteEffect, countByte, sat33_eq_min]

/-- Settles O15: the effect of R127, whose `DONE` carries `crc_final` of the register. -/
theorem crcEndReportsTheChecksum : Obligations.CrcEndReportsTheChecksum := by
  unfold Obligations.CrcEndReportsTheChecksum
  refine ⟨rfl, ?_, takesProtocolOutside_of_allowedIn fun _ => eq_of_beq, takesIllegalCmd_argNotZero rfl⟩
  intro s hf hm
  exact exec_allowed hf (by rw [hm]; rfl)

end Sys2Proof.Machine
end

/-! ### The frame encoder (42_encoder.md) -/
section

namespace Sys2Proof.Machine

open Sys2Proof.Safety

/-! #### What the two commands do, by case -/

/-- A failure on an idle block is its result alone: `MODE` is IDLE already (R204). -/
theorem raiseFailure_of_idle {s : State} (c : ResultCode) (h : s.mode = .idle) :
    raiseFailure c s = reportDone c 0 s := by
  rw [raiseFailure, ← h]
  rfl

/-- The end of a frame as one update: the checksum's four bytes, then `DONE(OK, k)` (R143, R145). -/
theorem finishFrame_eq (s : State) :
    finishFrame s = { s with
      err := .ok, mode := .idle
      pending := s.pending ++ (outs (be32 (crcFinal s.crc)) ++ [.done .ok (crcFinal s.crc)]) } := by
  simp [finishFrame, reportDone, emit]

/-- The state of R143 once the first 8 bytes are emitted, before `MODE` is written. -/
def frameBegun (L : Word) (s : State) : State :=
  { s with
    len := L, cnt := 0, crc := (be32 s.idr).foldl crcStep Config.crcInit
    pending := s.pending ++ outs (be32 L ++ be32 s.idr) }

/-- R143 without an Identifier. -/
theorem encStartEffect_noIdentifier {s : State} (L : Word) (hv : s.idv = false) :
    encStartEffect L s = raiseFailure .invalidIdentifier s := by
  simp [encStartEffect, hv]

/-- R143 with an Identifier and a payload to come. -/
theorem encStartEffect_nonempty {s : State} {L : Word} (hv : s.idv = true) (hL : L ≠ 0) :
    encStartEffect L s = { frameBegun L s with mode := .enc } := by
  rw [encStartEffect, if_pos hv, if_neg hL]
  rfl

/-- R143 with an Identifier and no payload: the frame is finished at once. -/
theorem encStartEffect_empty {s : State} (hv : s.idv = true) :
    encStartEffect 0 s = finishFrame (frameBegun 0 s) := by
  rw [encStartEffect, if_pos hv, if_pos rfl]
  rfl

/-- The state of R145 once the payload byte is taken and emitted. -/
def byteFed (b : Byte) (s : State) : State :=
  { s with crc := crcStep s.crc b, cnt := s.cnt + 1#33, pending := s.pending ++ [.out b] }

/-- A count below its saturation value goes up by one (R27). -/
theorem countByte_of_lt {c : Count} (h : c.toNat < 2 ^ 33 - 1) : countByte c = c + 1#33 := by
  rw [countByte, sat33_eq_min, Nat.min_eq_left h]
  exact (BitVec.ofNat_add c.toNat 1).trans (by simp)

/-- "No saturation" (R145): an unfinished encode has counted fewer bytes than its length, a 32-bit number (R34 item 2). -/
theorem countByte_of_encoding {s : State} (hinv : Inv s) (hm : s.mode = .enc) : countByte s.cnt = s.cnt + 1#33 := by
  obtain ⟨-, -, hlt⟩ := hinv.enc_unfinished hm
  have hlen := s.len.isLt
  exact countByte_of_lt (by omega)

/-- R145 in its two cases, under the invariant. -/
theorem encByteEffect_eq {s : State} (b : Byte) (hinv : Inv s) (hm : s.mode = .enc) :
    encByteEffect b s =
      if s.cnt.toNat + 1 = s.len.toNat then finishFrame (byteFed b s) else byteFed b s := by
  rw [encByteEffect, countByte_of_encoding hinv hm]
  rfl

/-! #### The two commands -/

/-- Settles O16: the three cases of R143; without an Identifier and with no payload `MODE` is IDLE before and after. -/
theorem encStartBeginsAFrame : Obligations.EncStartBeginsAFrame := by
  unfold Obligations.EncStartBeginsAFrame
  have hexec {L : Word} {s : State} (hf : s.fault = .noFault) (hm : s.mode = .idle) :
      exec (.encStart L) s = .next (encStartEffect L s) := exec_allowed hf (by rw [hm]; rfl)
  refine ⟨Laws.EncodedWord.cmdWord_toNat (by decide), ?_, ?_, ?_⟩
  · intro L s hf hm hv
    rw [hexec hf hm, encStartEffect_noIdentifier L hv, raiseFailure_of_idle _ hm]
    rfl
  · rintro L s b0 b1 b2 b3 c hf hm hv rfl rfl rfl rfl rfl
    constructor
    · intro hL
      rw [hexec hf hm, encStartEffect_nonempty hv hL]
      rfl
    · rintro k rfl rfl
      rw [hexec hf hm, encStartEffect_empty hv, finishFrame_eq]
      simp [frameBegun, hm, outs, be32, wordByte, crcFinal, Config.crcInit, Config.crcXorOut]
  · exact fun L => takesProtocolOutside_of_allowedIn fun _ => eq_of_beq

/-- Settles O17: `encByteEffect_eq` before the last byte and on it. -/
theorem encByteEmitsTheByte : Obligations.EncByteEmitsTheByte := by
  unfold Obligations.EncByteEmitsTheByte
  have hexec {b : Byte} {s : State} (hf : s.fault = .noFault) (hm : s.mode = .enc) :
      exec (.encByte b) s = .next (encByteEffect b s) := exec_allowed hf (by rw [hm]; rfl)
  refine ⟨?_, ?_, ?_, fun _ => takesProtocolOutside_of_allowedIn fun _ => eq_of_beq, takesIllegalCmd_argAboveByte rfl⟩
  · intro b
    rw [encode, Laws.EncodedWord.cmdWord_toNat (by decide), Laws.EncodedWord.byteArg_toNat]
    omega
  · intro b s hf hm hinv hmore
    rw [hexec hf hm, encByteEffect_eq b hinv hm, if_neg hmore, byteFed]
  · rintro b s k hf hm hinv hlast rfl
    rw [hexec hf hm, encByteEffect_eq b hinv hm, if_pos hlast, finishFrame_eq]
    simp [byteFed, outs, be32, wordByte, crcFinal, Config.crcXorOut]

end Sys2Proof.Machine
end

/-! ### The frame decoder (43_decoder.md) -/
section

namespace Sys2Proof.Machine

open Sys2Proof.Safety

/-- The saturating count as a minimum (R8, R27). -/
theorem countByte_eq_min (c : Count) : countByte c = BitVec.ofNat 33 (min (c.toNat + 1) (2 ^ 33 - 1)) := by
  rw [countByte, sat33_eq_min]

/-! #### Where `DEC_BYTE` sends its byte, one lemma per branch of R164 -/

section DecByte

variable {s : State} (b : Byte)

/-- Offsets 0 to 3: the length field. -/
theorem decByteEffect_length (hk : s.cnt.toNat < 4) :
    decByteEffect b s = { s with cnt := countByte s.cnt, len := shiftInByte s.len b } := if_pos hk

/-- Offsets 4 to 7: the identifier. -/
theorem decByteEffect_identifier (hlo : 4 ≤ s.cnt.toNat) (hhi : s.cnt.toNat < 8) :
    decByteEffect b s = { s with
      cnt := countByte s.cnt, idr := setWordByte (s.cnt.toNat - 4) b s.idr, crc := crcStep s.crc b } := by
  rw [decByteEffect, if_neg hlo.not_gt, if_pos hhi]

/-- Offsets from 8, below `8 + LEN`: the payload. -/
theorem decByteEffect_payload (hlo : 8 ≤ s.cnt.toNat) (hhi : s.cnt.toNat < 8 + s.len.toNat) :
    decByteEffect b s = { s with
      cnt := countByte s.cnt, crc := crcStep s.crc b, pending := s.pending ++ [.pay b] } := by
  rw [decByteEffect, if_neg (by omega), if_neg hlo.not_gt, if_pos hhi, emit]

/-- Offsets from `8 + LEN`, below `12 + LEN`: the checksum field. -/
theorem decByteEffect_checksum (hlo : 8 + s.len.toNat ≤ s.cnt.toNat) (hhi : s.cnt.toNat < 12 + s.len.toNat) :
    decByteEffect b s = { s with cnt := countByte s.cnt, ckr := shiftInByte s.ckr b } := by
  rw [decByteEffect, if_neg (by omega), if_neg (by omega), if_neg hlo.not_gt, if_pos hhi]

/-- Offsets from `12 + LEN`: a byte too many is counted and nothing else. -/
theorem decByteEffect_beyond (hlo : 12 + s.len.toNat ≤ s.cnt.toNat) :
    decByteEffect b s = { s with cnt := countByte s.cnt } := by
  rw [decByteEffect, if_neg (by omega), if_neg (by omega), if_neg (by omega), if_neg hlo.not_gt]

end DecByte

/-! #### The verdicts of `DEC_END`, one lemma per branch of R168 -/

section DecEnd

variable {s : State}

theorem decEndEffect_truncated (hn : s.cnt.toNat < 12) : decEndEffect s = raiseFailure .truncated s := if_pos hn

theorem decEndEffect_lengthMismatch (hn : 12 ≤ s.cnt.toNat) (hlen : s.cnt.toNat ≠ s.len.toNat + 12) :
    decEndEffect s = raiseFailure .lengthMismatch s := by
  rw [decEndEffect, if_neg hn.not_gt, if_pos hlen]

/-- A count of `LEN + 12` is at least 12, so it passes both tests of the count; the last two tests remain. -/
theorem decEndEffect_of_wholeFrame (hlen : s.cnt.toNat = s.len.toNat + 12) :
    decEndEffect s =
      if ¬ lettersOk s.idr then raiseFailure .invalidIdentifier s
      else if s.ckr ≠ crcFinal s.crc then raiseFailure .checksumMismatch s
      else { reportDone .ok s.len { s with idv := true } with mode := .idle } := by
  rw [decEndEffect, if_neg (by omega), if_neg (not_not.2 hlen)]

theorem decEndEffect_invalidIdentifier (hlen : s.cnt.toNat = s.len.toNat + 12) (hid : lettersOk s.idr = false) :
    decEndEffect s = raiseFailure .invalidIdentifier s := by
  rw [decEndEffect_of_wholeFrame hlen, if_pos (Bool.eq_false_iff.1 hid)]

theorem decEndEffect_checksumMismatch (hlen : s.cnt.toNat = s.len.toNat + 12) (hid : lettersOk s.idr = true)
    (hck : s.ckr ≠ crcFinal s.crc) : decEndEffect s = raiseFailure .checksumMismatch s := by
  rw [decEndEffect_of_wholeFrame hlen, if_neg (not_not.2 hid), if_pos hck]

theorem decEndEffect_ok (hlen : s.cnt.toNat = s.len.toNat + 12) (hid : lettersOk s.idr = true)
    (hck : s.ckr = crcFinal s.crc) :
    decEndEffect s = { reportDone .ok s.len { s with idv := true } with mode := .idle } := by
  rw [decEndEffect_of_wholeFrame hlen, if_neg (not_not.2 hid), if_neg (not_not.2 hck)]

end DecEnd

/-! #### The three commands -/

/-- Settles O18: the effect of R163 in the one mode that allows it. -/
theorem decStartBeginsADecode : Obligations.DecStartBeginsADecode := by
  unfold Obligations.DecStartBeginsADecode
  refine ⟨rfl, ?_, takesProtocolOutside_of_allowedIn fun _ => eq_of_beq, takesIllegalCmd_argNotZero rfl⟩
  intro s hf hm
  exact exec_allowed hf (by rw [hm]; rfl)

/-- Settles O19: the five branches of R164; what a write of one byte of `IDR` leaves in each of the four is
`wordByte_setWordByte`. -/
theorem decByteRoutesByOffset : Obligations.DecByteRoutesByOffset := by
  unfold Obligations.DecByteRoutesByOffset
  refine ⟨?_, ?_, fun _ => takesProtocolOutside_of_allowedIn fun _ => eq_of_beq, takesIllegalCmd_argAboveByte rfl⟩
  · intro b
    rw [encode, Laws.EncodedWord.cmdWord_toNat (by decide), Laws.EncodedWord.byteArg_toNat]
    omega
  · rintro b s k n hf hm rfl rfl
    have hexec : exec (.decByte b) s = .next (decByteEffect b s) := exec_allowed hf (by rw [hm]; rfl)
    rw [hexec, ← countByte_eq_min, ← shiftInByte_eq, ← shiftInByte_eq]
    refine ⟨?_, ?_, ?_, ?_, ?_⟩
    · intro hk
      rw [decByteEffect_length b hk]
    · intro hlo hhi
      refine ⟨setWordByte (s.cnt.toNat - 4) b s.idr, by rw [decByteEffect_identifier b hlo hhi], fun j hj => ?_⟩
      exact wordByte_setWordByte (by omega) hj b s.idr
    · intro hlo hhi
      rw [decByteEffect_payload b hlo hhi]
    · intro hlo hhi
      rw [decByteEffect_checksum b hlo hhi]
    · intro hlo
      rw [decByteEffect_beyond b hlo]

/-- Settles O20: the five verdicts of R168, each a branch of `decEndEffect`; a failure is `raiseFailure`, which keeps `IDV`
(R204). -/
theorem decEndGivesTheVerdict : Obligations.DecEndGivesTheVerdict := by
  unfold Obligations.DecEndGivesTheVerdict
  refine ⟨rfl, ?_, takesProtocolOutside_of_allowedIn fun _ => eq_of_beq, takesIllegalCmd_argNotZero rfl⟩
  intro s hf hm
  have hexec : exec .decEnd s = .next (decEndEffect s) := exec_allowed hf (by rw [hm]; rfl)
  rw [hexec]
  refine ⟨?_, ?_, ?_, ?_, ?_⟩
  · intro hn
    rw [decEndEffect_truncated hn]
    rfl
  · intro hn hlen
    rw [decEndEffect_lengthMismatch hn hlen]
    rfl
  · intro hlen hid
    rw [decEndEffect_invalidIdentifier hlen hid]
    rfl
  · intro hlen hid hck
    rw [decEndEffect_checksumMismatch hlen hid hck]
    rfl
  · intro hlen hid hck
    rw [decEndEffect_ok hlen hid hck]
    rfl

end Sys2Proof.Machine
end

/-! ### Dispatch, faults and `NOP` (44_system.md) -/
section

namespace Sys2Proof.Machine

open Sys2Proof.Safety

/-! #### The four tests on a command -/

/-- The table of R191 as the statements write it and as the model computes it say the same. -/
theorem outOfSequence_iff_not_allowedIn (i : Instr) (m : Mode) : OutOfSequence i m ↔ allowedIn i m = false := by
  cases i with
  | nop => simp [OutOfSequence, allowedIn]
  | idLoad _ | crcStart | crcByte _ | crcEnd | encStart _ | encByte _ | decStart | decByte _ | decEnd =>
    exact beq_eq_false_iff_ne.symm

/-- Test 1 of R190, on a command: a faulted block ignores it. -/
theorem exec_faulted {i : Instr} {s : State} (hf : s.fault ≠ .noFault) : exec i s = .next s := by
  rw [exec_eq_guarded, guarded_faulted hf]

/-- Test 3 of R190: a command out of sequence takes `PROTOCOL` and writes nothing else. -/
theorem exec_outOfSequence {i : Instr} {s : State} (hf : s.fault = .noFault) (hm : OutOfSequence i s.mode) :
    exec i s = .next { s with fault := .protocol } := by
  rw [exec_eq_guarded, guarded_outOfMode hf ((outOfSequence_iff_not_allowedIn i s.mode).1 hm), takeFault]

/-- Test 4 of R190: a command in sequence runs its effect, which takes no fault. -/
theorem exec_inSequence {i : Instr} {s : State} (hf : s.fault = .noFault) (hm : ¬ OutOfSequence i s.mode) :
    ∃ t, exec i s = .next t ∧ t.fault = .noFault := by
  rw [outOfSequence_iff_not_allowedIn, Bool.not_eq_false] at hm
  exact ⟨effectOf i s, exec_allowed hf hm, (effectOf_fault i s).trans hf⟩

/-- `NOP` passes test 3 in every mode, and both tests 1 and 4 leave the state as it is (R193). -/
theorem exec_nop (s : State) : exec .nop s = .next s := by
  by_cases hf : s.fault = .noFault
  · exact exec_allowed hf rfl
  · exact exec_faulted hf

/-! #### The tests on an accepted word, and what a step does to `FAULT` -/

/-- An accepted word that decodes is executed on the state less its transaction. -/
theorem step_decoded {s : State} {w : CmdWord} {rest : List Input} {i : Instr} (hi : s.inputs = .cmd w :: rest)
    (hd : decode w = .ok i) : step s = exec i { s with inputs := rest } := by
  simp [step, nextTransaction, acceptWord, hi, hd]

/-- Test 1 of R190: a faulted block consumes an accepted word, of either kind, and does nothing else. -/
theorem step_word_faulted {s : State} {w : CmdWord} {rest : List Input} (hi : s.inputs = .cmd w :: rest)
    (hf : s.fault ≠ .noFault) : step s = .next { s with inputs := rest } := by
  match hd : decode w with
  | .ok i => exact (step_decoded hi hd).trans (exec_faulted hf)
  | .error e => simp [step, nextTransaction, acceptWord, illegalWord, hi, hd, hf]

/-- Taking an event does not touch `FAULT`. -/
@[simp] theorem takeEvent_fault (s : State) : (takeEvent s).fault = s.fault := by
  obtain ⟨-, hfault, -⟩ := takeEvent_sameRegisters s
  exact hfault

/-- R192: only an accepted word takes a fault, and taking it writes `FAULT` alone. -/
theorem step_takes_fault {s t : State} (h : step s = .next t) (hf : s.fault = .noFault) (ht : t.fault ≠ .noFault) :
    ∃ w rest, s.inputs = .cmd w :: rest ∧ t = { s with inputs := rest, fault := t.fault } := by
  rcases step_cases s with ⟨-, hs⟩ | ⟨w, rest, i, hi, -, hs⟩ | ⟨w, rest, -, hi, -, hs⟩ | ⟨rest, -, hs⟩ | ⟨rest, -, hs⟩
    <;> rw [hs] at h
  · cases h
    exact (ht hf).elim
  · refine ⟨w, rest, hi, ?_⟩
    rcases exec_cases h with ⟨hne, -⟩ | ⟨-, -, rfl⟩ | ⟨-, -, rfl⟩
    · exact (hne hf).elim
    · rfl
    · exact (ht ((effectOf_fault i _).trans hf)).elim
  · refine ⟨w, rest, hi, ?_⟩
    cases h
    rcases illegalWord_cases { s with inputs := rest } with ⟨hne, -⟩ | ⟨-, hill⟩
    · exact (hne hf).elim
    · rw [hill]
      rfl
  · cases h
    exact (ht ((takeEvent_fault _).trans hf)).elim
  · cases h
    exact (ht (applyReset_fault _)).elim

/-- R192: without a reset a faulted block keeps its registers and its event stream. -/
theorem step_of_faulted {s t : State} (h : step s = .next t) (hf : s.fault ≠ .noFault)
    (hr : ¬ ∃ rest, s.inputs = .rst :: rest) :
    SameRegisters s t ∧ t.taken ++ t.pending = s.taken ++ s.pending := by
  have hword {w : CmdWord} {rest : List Input} (hi : s.inputs = .cmd w :: rest) :
      SameRegisters s t ∧ t.taken ++ t.pending = s.taken ++ s.pending := by
    rw [step_word_faulted hi hf] at h
    cases h
    exact ⟨sameRegisters_refl s, rfl⟩
  rcases step_cases s with ⟨-, hs⟩ | ⟨w, rest, -, hi, -⟩ | ⟨w, rest, -, hi, -⟩ | ⟨rest, -, hs⟩ | ⟨rest, hi, -⟩
  · rw [hs] at h
    cases h
    exact ⟨sameRegisters_refl s, rfl⟩
  · exact hword hi
  · exact hword hi
  · rw [hs] at h
    cases h
    exact ⟨takeEvent_sameRegisters { s with inputs := rest }, takeEvent_stream { s with inputs := rest }⟩
  · exact absurd ⟨rest, hi⟩ hr

/-! #### The statements -/

/-- Settles O5: one lemma per test of R190. -/
theorem dispatchTestsInOrder : Obligations.DispatchTestsInOrder := by
  unfold Obligations.DispatchTestsInOrder
  intro s w rest hi
  refine ⟨step_word_faulted hi, step_undecodable hi, ?_, ?_⟩
  · intro i hf hd hm
    rw [step_decoded hi hd]
    exact exec_outOfSequence hf hm
  · intro i hf hd hm
    obtain ⟨t, ht, htf⟩ := exec_inSequence (s := { s with inputs := rest }) hf hm
    exact ⟨t, (step_decoded hi hd).trans ht, ht, htf⟩

/-- Settles O6: tests 3 and 4 of R190 on the command itself. -/
theorem commandAllowedOnlyInItsModes : Obligations.CommandAllowedOnlyInItsModes := by
  unfold Obligations.CommandAllowedOnlyInItsModes
  exact fun i s hf => ⟨exec_outOfSequence hf, exec_inSequence hf⟩

/-- Settles O7: `step_takes_fault` for the step that takes the fault, `step_of_faulted` for every later one. -/
theorem faultFreezesUntilReset : Obligations.FaultFreezesUntilReset := by
  unfold Obligations.FaultFreezesUntilReset
  exact ⟨fun _ _ => step_takes_fault, fun _ _ => step_of_faulted⟩

/-- Settles O11: `exec_nop`, and the argument form of opcode 0, which leaves no bit free. -/
theorem nopDoesNothing : Obligations.NopDoesNothing := by
  unfold Obligations.NopDoesNothing
  exact ⟨rfl, exec_nop, takesIllegalCmd_argNotZero rfl⟩

end Sys2Proof.Machine
end

/-! ### Results and failures (60_exceptions.md) -/
section

namespace Sys2Proof.Machine

open Sys2Proof.Safety

/-! #### The two ways a command can end -/

/-- From `s` to `t` no `DONE` is emitted and `ERR` is kept: the operation goes on. -/
def EmitsNoDone (s t : State) : Prop :=
  t.err = s.err ∧ ∃ es, t.pending = s.pending ++ es ∧ ∀ e ∈ es, isDone e = false

/-- From `s` to `t` one `DONE` is emitted, after every other event, with the code written to `ERR`; the operation is over
(R203). -/
def EndsWithDone (s t : State) : Prop :=
  ∃ es c v, t.pending = s.pending ++ es ++ [.done c v] ∧ (∀ e ∈ es, isDone e = false) ∧ t.err = c ∧ t.mode = .idle

theorem EmitsNoDone.of_no_events {s t : State} (he : t.err = s.err) (hp : t.pending = s.pending) : EmitsNoDone s t :=
  ⟨he, [], by rw [hp, List.append_nil], by simp⟩

theorem EndsWithDone.of_single {s t : State} {c : ResultCode} {v : Word} (hp : t.pending = s.pending ++ [.done c v])
    (he : t.err = c) (hm : t.mode = .idle) : EndsWithDone s t :=
  ⟨[], c, v, by rw [hp, List.append_nil], by simp, he, hm⟩

/-- Events without a `DONE` before the end leave the one `DONE` the last event. -/
theorem EmitsNoDone.endsWithDone {s t u : State} (hst : EmitsNoDone s t) (htu : EndsWithDone t u) :
    EndsWithDone s u := by
  obtain ⟨-, es, hes, hno⟩ := hst
  obtain ⟨es', c, v, hes', hno', he, hm⟩ := htu
  refine ⟨es ++ es', c, v, ?_, List.forall_mem_append.2 ⟨hno, hno'⟩, he, hm⟩
  rw [hes', hes, List.append_assoc s.pending]

/-! #### Which way each operation ends -/

theorem isDone_of_mem_outs {bs : List Byte} : ∀ e ∈ outs bs, isDone e = false := by
  simp [outs, isDone]

theorem raiseFailure_endsWithDone (c : ResultCode) (s : State) : EndsWithDone s (raiseFailure c s) :=
  .of_single rfl rfl rfl

theorem finishFrame_endsWithDone (s : State) : EndsWithDone s (finishFrame s) :=
  ⟨outs (be32 (crcFinal s.crc)), .ok, crcFinal s.crc, rfl, isDone_of_mem_outs, rfl, rfl⟩

/-- R105: `ID_LOAD` runs in IDLE, and neither of its results writes `MODE`. -/
theorem idLoadEffect_endsWithDone (w : Word) {s : State} (hm : s.mode = .idle) :
    EndsWithDone s (idLoadEffect w s) := by
  unfold idLoadEffect
  split
  · exact .of_single rfl rfl hm
  · exact .of_single rfl rfl hm

/-- R143: only a frame with a payload to come leaves the operation open. -/
theorem encStartEffect_ends (L : Word) (s : State) :
    EmitsNoDone s (encStartEffect L s) ∨ EndsWithDone s (encStartEffect L s) := by
  have hbegun : EmitsNoDone s (frameBegun L s) := ⟨rfl, _, rfl, isDone_of_mem_outs⟩
  cases hv : s.idv with
  | false =>
    rw [encStartEffect_noIdentifier L hv]
    exact .inr (raiseFailure_endsWithDone _ s)
  | true =>
    by_cases hL : L = 0
    · subst hL
      rw [encStartEffect_empty hv]
      exact .inr (hbegun.endsWithDone (finishFrame_endsWithDone _))
    · rw [encStartEffect_nonempty hv hL]
      exact .inl hbegun

/-- R145: the last payload byte ends the frame, in every state, whether or not the count is saturated. -/
theorem encByteEffect_ends (b : Byte) (s : State) :
    EmitsNoDone s (encByteEffect b s) ∨ EndsWithDone s (encByteEffect b s) := by
  have hfed : EmitsNoDone s (emit [.out b] { s with crc := crcStep s.crc b, cnt := countByte s.cnt }) :=
    ⟨rfl, _, rfl, isDone_of_mem_outs (bs := [b])⟩
  unfold encByteEffect
  split
  · exact .inr (hfed.endsWithDone (finishFrame_endsWithDone _))
  · exact .inl hfed

/-- R164: of the five regions only the payload emits, and it emits a `PAY`. -/
theorem decByteEffect_emitsNoDone (b : Byte) (s : State) : EmitsNoDone s (decByteEffect b s) := by
  simp only [decByteEffect]
  split_ifs
  · exact .of_no_events rfl rfl
  · exact .of_no_events rfl rfl
  · exact ⟨rfl, [.pay b], rfl, by simp [isDone]⟩
  · exact .of_no_events rfl rfl
  · exact .of_no_events rfl rfl

/-- R168: every verdict is a `DONE`. -/
theorem decEndEffect_endsWithDone (s : State) : EndsWithDone s (decEndEffect s) := by
  unfold decEndEffect
  split
  · exact raiseFailure_endsWithDone _ s
  split
  · exact raiseFailure_endsWithDone _ s
  split
  · exact raiseFailure_endsWithDone _ s
  split
  · exact raiseFailure_endsWithDone _ s
  · exact .of_single rfl rfl rfl

/-- Every command in sequence ends in one of the two ways. -/
theorem effectOf_ends {i : Instr} {s : State} (hm : allowedIn i s.mode = true) :
    EmitsNoDone s (effectOf i s) ∨ EndsWithDone s (effectOf i s) := by
  cases i with
  | nop | crcStart | crcByte _ | decStart => exact .inl (.of_no_events rfl rfl)
  | idLoad w => exact .inr (idLoadEffect_endsWithDone w (eq_of_beq hm))
  | crcEnd => exact .inr (.of_single rfl rfl rfl)
  | encStart L => exact encStartEffect_ends L s
  | encByte b => exact encByteEffect_ends b s
  | decByte b => exact .inl (decByteEffect_emitsNoDone b s)
  | decEnd => exact .inr (decEndEffect_endsWithDone s)

/-- Settles O23: a command that is ignored or takes `PROTOCOL` emits nothing; one in sequence ends as `effectOf_ends` says,
and its effect writes no `FAULT`. -/
theorem doneIsLastAndSetsErr : Obligations.DoneIsLastAndSetsErr := by
  unfold Obligations.DoneIsLastAndSetsErr
  intro i s t h
  rcases exec_cases h with ⟨-, rfl⟩ | ⟨-, -, rfl⟩ | ⟨hf, hm, rfl⟩
  · exact .inl (EmitsNoDone.of_no_events rfl rfl)
  · exact .inl (EmitsNoDone.of_no_events rfl rfl)
  · refine (effectOf_ends hm).imp_right ?_
    rintro ⟨es, c, v, hp, hno, he, hidle⟩
    exact ⟨es, c, v, hp, hno, he, hidle, (effectOf_fault i s).trans hf⟩

end Sys2Proof.Machine
end

/-! ### The round trip of a command word, and the ports (30_encoding.md, 20_memory.md, 70_reset_and_hazards.md) -/
section

namespace Sys2Proof.Machine

open Sys2Proof.Safety

/-! #### Decode and encode -/

/-- The statement of `Laws.EncodedWord` for every instruction. -/
theorem encodedWord (i : Instr) : Laws.EncodedWord.Statement i := by
  cases i with
  | nop => exact Laws.EncodedWord.nop
  | idLoad w => exact Laws.EncodedWord.idLoad w
  | crcStart => exact Laws.EncodedWord.crcStart
  | crcByte b => exact Laws.EncodedWord.crcByte b
  | crcEnd => exact Laws.EncodedWord.crcEnd
  | encStart L => exact Laws.EncodedWord.encStart L
  | encByte b => exact Laws.EncodedWord.encByte b
  | decStart => exact Laws.EncodedWord.decStart
  | decByte b => exact Laws.EncodedWord.decByte b
  | decEnd => exact Laws.EncodedWord.decEnd

/-- The encoding as a number: the opcode above the argument (R83). -/
theorem encode_toNat (i : Instr) : (encode i).toNat = i.opArg.1 * 2 ^ 32 + i.opArg.2 := by
  obtain ⟨-, hword, -⟩ := encodedWord i
  exact hword

/-- An argument has 32 bits (R76). -/
theorem opArg_snd_lt (i : Instr) : i.opArg.2 < 2 ^ 32 := by
  cases i with
  | nop | crcStart | crcEnd | decStart | decEnd => decide
  | idLoad w | encStart w => exact w.isLt
  | crcByte b | encByte b | decByte b => exact b.isLt.trans (by decide)

/-- The two fields of an encoding are the instruction's opcode and argument, so it decodes to the instruction. -/
@[simp] theorem decode_encode (i : Instr) : decode (encode i) = .ok i := by
  have harg := opArg_snd_lt i
  rw [decode_eq_ok_iff, encode_toNat]
  omega

/-- A word that decodes has the two fields of the instruction's encoding, and no other bit. -/
theorem encode_of_decode {w : CmdWord} {i : Instr} (h : decode w = .ok i) : encode i = w := by
  obtain ⟨hop, harg⟩ := decode_eq_ok_iff.1 h
  apply BitVec.eq_of_toNat_eq
  rw [encode_toNat]
  omega

/-- Settles O2: `decode_encode` and `encode_of_decode`. -/
theorem decodeEncodeAgree : Obligations.DecodeEncodeAgree := by
  unfold Obligations.DecodeEncodeAgree
  exact ⟨fun i _ => decode_encode i, fun _ _ => encode_of_decode⟩

/-- Settles O1: the ten words by their two fields (`decode_eq_ok_iff`), the three refusals by evaluation. -/
theorem sampleWordsDecode : Obligations.SampleWordsDecode := by
  unfold Obligations.SampleWordsDecode
  simp only [decode_eq_ok_iff]
  decide

/-! #### What each transaction does -/

/-- Every 36-bit word fits in a table word of 40 bits. -/
theorem tableWord_toNat (w : CmdWord) : tableWord 40 w.toNat = some w := by
  have hw := w.isLt
  have hmod : w.toNat % 2 ^ 40 = w.toNat := Nat.mod_eq_of_lt (by omega)
  rw [tableWord, hmod, if_pos hw, BitVec.ofNat_toNat, BitVec.setWidth_eq]

/-- Settles O4: `step_decoded`, on a word in `inputs` and on one handed over by `withFetchWord`. -/
theorem stepRunsTheDecodedCommand : Obligations.StepRunsTheDecodedCommand := by
  unfold Obligations.StepRunsTheDecodedCommand
  refine ⟨fun s w rest i hi hd _ => step_decoded hi hd, fun s w i hd _ => ?_⟩
  rw [State.withFetchWord, tableWord_toNat]
  exact step_decoded (s := handOver w s) rfl hd

/-- With no transaction the block waits (R212). -/
theorem step_no_transaction {s : State} (hi : s.inputs = []) : step s = .next s := by
  simp [step, nextTransaction, hi]

/-- An event handshake (R75). -/
theorem step_evtReady {s : State} {rest : List Input} (hi : s.inputs = .evtReady :: rest) :
    step s = .next (takeEvent { s with inputs := rest }) := by
  simp [step, nextTransaction, hi]

/-- A reset (R230). -/
theorem step_rst {s : State} {rest : List Input} (hi : s.inputs = .rst :: rest) :
    step s = .next (applyReset { s with inputs := rest }) := by
  simp [step, nextTransaction, hi]

/-- A handshake with nothing pending. -/
theorem takeEvent_of_nil {s : State} (hp : s.pending = []) : takeEvent s = s := by
  simp [takeEvent, hp]

/-- A handshake takes the oldest event. -/
theorem takeEvent_of_cons {s : State} {e : Event} {es : List Event} (hp : s.pending = e :: es) :
    takeEvent s = { s with pending := es, taken := s.taken ++ [e] } := by
  simp [takeEvent, hp]

/-- Settles O8: a step without a transaction, and the two cases of `takeEvent`. -/
theorem waitingAndTakingEvents : Obligations.WaitingAndTakingEvents := by
  unfold Obligations.WaitingAndTakingEvents
  refine ⟨fun s => step_no_transaction, fun s rest hi hp => ?_, fun s rest e es hi hp => ?_⟩
  · exact (step_evtReady hi).trans (congrArg _ (takeEvent_of_nil (s := { s with inputs := rest }) hp))
  · exact (step_evtReady hi).trans (congrArg _ (takeEvent_of_cons (s := { s with inputs := rest }) hp))

/-- Settles O9: the fields of `applyReset`; a step that is no reset keeps the registers of a faulted block
(`step_of_faulted`). -/
theorem resetRestoresEveryRegister : Obligations.ResetRestoresEveryRegister := by
  unfold Obligations.ResetRestoresEveryRegister
  constructor
  · intro s rest hi
    refine ⟨_, step_rst hi, rfl, rfl, rfl, rfl, rfl, rfl, rfl, rfl, rfl, rfl, rfl, ?_⟩
    exact survivors_sublist s.pending s.draws
  · intro s t hs hf ht
    by_contra hno
    obtain ⟨⟨-, hfault, -⟩, -⟩ := step_of_faulted hs hf hno
    exact hf (hfault ▸ ht)

/-! #### The event stream, and the transactions used up -/

/-- No command touches the host's side of the ports, and the events it emits go to the end of the stream. -/
theorem exec_ports {i : Instr} {s t : State} (h : exec i s = .next t) :
    t.inputs = s.inputs ∧ t.taken = s.taken ∧ t.draws = s.draws ∧ ∃ es, t.pending = s.pending ++ es := by
  rcases exec_cases h with ⟨-, rfl⟩ | ⟨-, -, rfl⟩ | ⟨-, -, rfl⟩
  · exact ⟨rfl, rfl, rfl, [], by simp⟩
  · exact ⟨rfl, rfl, rfl, [], by simp⟩
  · obtain ⟨hin, htaken, hdraws⟩ := effectOf_ports i s
    exact ⟨hin, htaken, hdraws, effectOf_pending i s⟩

/-- Taking an event only adds to the events taken. -/
theorem taken_prefix_takeEvent (s : State) : s.taken <+: (takeEvent s).taken := by
  unfold takeEvent
  split
  · exact List.prefix_rfl
  · exact List.prefix_append _ _

/-- A step that leaves the events taken and adds to those pending keeps the stream. -/
theorem stream_grows {s t : State} (htaken : t.taken = s.taken) (hp : ∃ es, t.pending = s.pending ++ es) :
    (∃ es, t.taken ++ t.pending = s.taken ++ s.pending ++ es) ∧ s.taken <+: t.taken := by
  obtain ⟨es, hes⟩ := hp
  exact ⟨⟨es, by rw [htaken, hes, List.append_assoc]⟩, htaken ▸ List.prefix_rfl⟩

/-- Settles O25: a command adds at the end (`exec_ports`), an illegal word emits nothing, and taking an event keeps the
stream (`takeEvent_stream`). -/
theorem eventStreamOnlyGrows : Obligations.EventStreamOnlyGrows := by
  unfold Obligations.EventStreamOnlyGrows
  intro s t h hno
  rcases step_cases s with ⟨-, hs⟩ | ⟨w, rest, i, -, -, hs⟩ | ⟨w, rest, -, -, -, hs⟩ | ⟨rest, -, hs⟩ | ⟨rest, hi, -⟩
  · obtain rfl : s = t := by simpa [hs] using h
    exact stream_grows rfl ⟨[], by simp⟩
  · obtain ⟨-, htaken, -, hp⟩ := exec_ports (hs ▸ h)
    exact stream_grows htaken hp
  · obtain rfl : illegalWord { s with inputs := rest } = t := by simpa [hs] using h
    rcases illegalWord_cases { s with inputs := rest } with ⟨-, hill⟩ | ⟨-, hill⟩ <;> rw [hill]
    · exact stream_grows rfl ⟨[], by simp⟩
    · exact stream_grows rfl ⟨[], by simp⟩
  · obtain rfl : takeEvent { s with inputs := rest } = t := by simpa [hs] using h
    refine ⟨⟨[], ?_⟩, taken_prefix_takeEvent { s with inputs := rest }⟩
    rw [takeEvent_stream, List.append_nil]
  · exact absurd ⟨rest, hi⟩ hno

/-- As many steps as there are transactions leave none. -/
theorem runFor_uses_up_inputs (ins : List Input) :
    ∀ s : State, s.inputs = ins → ∃ t, runFor ins.length s = .next t ∧ t.inputs = [] := by
  induction ins with
  | nil => exact fun s hi => ⟨s, rfl, hi⟩
  | cons x ins ih =>
    intro s hi
    obtain ⟨u, hu, htail⟩ := step_next s
    rw [List.length_cons, runFor_succ _ hu]
    exact ih u (by rw [htail, hi, List.tail_cons])

/-- Settles O26: `step_next` for one step, `runFor_uses_up_inputs` for the run. -/
theorem everyTransactionIsOneStep : Obligations.EveryTransactionIsOneStep := by
  unfold Obligations.EveryTransactionIsOneStep
  refine ⟨fun s => ?_, fun s => runFor_uses_up_inputs s.inputs s rfl⟩
  rw [List.drop_one]
  exact step_next s

end Sys2Proof.Machine
end

/-! ### Invariants, writers of registers, causes of failures (10_state.md, 44_system.md, 60_exceptions.md) -/
section

namespace Sys2Proof.Machine

open Sys2Proof.Safety

/-! #### The frame of each command that has more than one case -/

section Frames

variable (w L : Word) (b : Byte) (s : State)

/-! `ID_LOAD` writes `IDR`, `IDV` and `ERR` (R105). -/

@[simp] theorem idLoadEffect_mode : (idLoadEffect w s).mode = s.mode := by
  unfold idLoadEffect; split <;> rfl
@[simp] theorem idLoadEffect_len : (idLoadEffect w s).len = s.len := by
  unfold idLoadEffect; split <;> rfl
@[simp] theorem idLoadEffect_cnt : (idLoadEffect w s).cnt = s.cnt := by
  unfold idLoadEffect; split <;> rfl
@[simp] theorem idLoadEffect_crc : (idLoadEffect w s).crc = s.crc := by
  unfold idLoadEffect; split <;> rfl
@[simp] theorem idLoadEffect_ckr : (idLoadEffect w s).ckr = s.ckr := by
  unfold idLoadEffect; split <;> rfl

/-! `ENC_START` leaves the Identifier and `CKR` (R143). -/

@[simp] theorem encStartEffect_idr : (encStartEffect L s).idr = s.idr := by
  simp only [encStartEffect]; split_ifs <;> rfl
@[simp] theorem encStartEffect_idv : (encStartEffect L s).idv = s.idv := by
  simp only [encStartEffect]; split_ifs <;> rfl
@[simp] theorem encStartEffect_ckr : (encStartEffect L s).ckr = s.ckr := by
  simp only [encStartEffect]; split_ifs <;> rfl

/-- `ENC_START` without an Identifier writes `ERR` and `MODE` alone (R143, R204). -/
theorem encStartEffect_frame_noIdentifier (hv : s.idv = false) :
    (encStartEffect L s).len = s.len ∧ (encStartEffect L s).cnt = s.cnt ∧ (encStartEffect L s).crc = s.crc := by
  rw [encStartEffect_noIdentifier L hv]
  exact ⟨rfl, rfl, rfl⟩

/-! `ENC_BYTE` leaves the Identifier, `LEN` and `CKR` (R145). -/

@[simp] theorem encByteEffect_idr : (encByteEffect b s).idr = s.idr := by
  simp only [encByteEffect]; split_ifs <;> rfl
@[simp] theorem encByteEffect_idv : (encByteEffect b s).idv = s.idv := by
  simp only [encByteEffect]; split_ifs <;> rfl
@[simp] theorem encByteEffect_len : (encByteEffect b s).len = s.len := by
  simp only [encByteEffect]; split_ifs <;> rfl
@[simp] theorem encByteEffect_ckr : (encByteEffect b s).ckr = s.ckr := by
  simp only [encByteEffect]; split_ifs <;> rfl

/-- `ENC_BYTE` ends the encode on the last byte and leaves `MODE` before it (R145). -/
theorem encByteEffect_mode :
    (encByteEffect b s).mode = if s.cnt.toNat + 1 = s.len.toNat then .idle else s.mode := by
  simp only [encByteEffect]
  split_ifs <;> rfl

/-! `DEC_BYTE` leaves `MODE`, `ERR` and `IDV` in every region (R164). -/

@[simp] theorem decByteEffect_mode : (decByteEffect b s).mode = s.mode := by
  simp only [decByteEffect]; split_ifs <;> rfl
@[simp] theorem decByteEffect_err : (decByteEffect b s).err = s.err := by
  simp only [decByteEffect]; split_ifs <;> rfl
@[simp] theorem decByteEffect_idv : (decByteEffect b s).idv = s.idv := by
  simp only [decByteEffect]; split_ifs <;> rfl

/-- `DEC_BYTE` routes its byte to a register only at the offsets of that register's field (R164). -/
theorem decByteEffect_offsets :
    ((decByteEffect b s).len ≠ s.len → s.cnt.toNat < 4) ∧
    ((decByteEffect b s).idr ≠ s.idr → 4 ≤ s.cnt.toNat ∧ s.cnt.toNat < 8) ∧
    ((decByteEffect b s).crc ≠ s.crc → 4 ≤ s.cnt.toNat ∧ s.cnt.toNat < 8 + s.len.toNat) ∧
    ((decByteEffect b s).ckr ≠ s.ckr → 8 + s.len.toNat ≤ s.cnt.toNat ∧ s.cnt.toNat < 12 + s.len.toNat) := by
  simp only [decByteEffect]
  split_ifs <;> simp <;> omega

/-! `DEC_END` ends the decode, and writes `MODE`, `ERR` and, on success, `IDV` (R168). -/

@[simp] theorem decEndEffect_mode : (decEndEffect s).mode = .idle := by
  unfold decEndEffect; split_ifs <;> rfl
@[simp] theorem decEndEffect_idr : (decEndEffect s).idr = s.idr := by
  unfold decEndEffect; split_ifs <;> rfl
@[simp] theorem decEndEffect_len : (decEndEffect s).len = s.len := by
  unfold decEndEffect; split_ifs <;> rfl
@[simp] theorem decEndEffect_cnt : (decEndEffect s).cnt = s.cnt := by
  unfold decEndEffect; split_ifs <;> rfl
@[simp] theorem decEndEffect_crc : (decEndEffect s).crc = s.crc := by
  unfold decEndEffect; split_ifs <;> rfl
@[simp] theorem decEndEffect_ckr : (decEndEffect s).ckr = s.ckr := by
  unfold decEndEffect; split_ifs <;> rfl

end Frames

/-! #### What a step does to the registers -/

/-- A step leaves every register but `FAULT`, or is a command in sequence, or a reset. -/
theorem step_registers_cases {s t : State} (h : step s = .next t) :
    SameRegisters { s with fault := t.fault } t ∨
    (∃ w rest i, s.inputs = .cmd w :: rest ∧ decode w = .ok i ∧ s.fault = .noFault ∧ allowedIn i s.mode = true
      ∧ t = effectOf i { s with inputs := rest }) ∨
    (∃ rest, s.inputs = .rst :: rest ∧ t = applyReset { s with inputs := rest }) := by
  rcases step_cases s with ⟨-, hs⟩ | ⟨w, rest, i, hi, hd, hs⟩ | ⟨w, rest, -, -, -, hs⟩ | ⟨rest, -, hs⟩ | ⟨rest, hi, hs⟩
    <;> rw [hs] at h
  · cases h
    exact .inl (sameRegisters_refl s)
  · rcases exec_cases h with ⟨-, rfl⟩ | ⟨-, -, rfl⟩ | ⟨hf, hm, rfl⟩
    · exact .inl (sameRegisters_refl s)
    · exact .inl (sameRegisters_refl (takeFault .protocol s))
    · exact .inr (.inl ⟨w, rest, i, hi, hd, hf, hm, rfl⟩)
  · cases h
    rcases illegalWord_cases { s with inputs := rest } with ⟨-, hill⟩ | ⟨-, hill⟩ <;> rw [hill]
    · exact .inl (sameRegisters_refl s)
    · exact .inl (sameRegisters_refl (takeFault .illegalCmd s))
  · cases h
    obtain ⟨hmode, -, hothers⟩ := takeEvent_sameRegisters { s with inputs := rest }
    exact .inl ⟨hmode, rfl, hothers⟩
  · cases h
    exact .inr (.inr ⟨rest, hi, rfl⟩)

/-! #### The invariants -/

/-- The invariants speak of no port and not of `FAULT`. -/
theorem inv_of_registers_eq {s t : State} (h : Inv s) (hm : t.mode = s.mode) (he : t.err = s.err) (hi : t.idr = s.idr)
    (hv : t.idv = s.idv) (hl : t.len = s.len) (hn : t.cnt = s.cnt) : Inv t where
  idv_letters := by rw [hi, hv]; exact h.idv_letters
  enc_unfinished := by rw [hm, hv, hl, hn]; exact h.enc_unfinished
  dec_no_identifier := by rw [hm, hv]; exact h.dec_no_identifier
  err_code := by rw [he]; exact h.err_code

/-- With no frame operation in progress the invariants are those of the Identifier and of `ERR`. -/
theorem inv_of_noFrame {t : State} (hm : t.mode = .idle ∨ t.mode = .crc) (hid : t.idv = true → lettersOk t.idr = true)
    (he : (resultBits t.err).toNat ≤ 5) : Inv t where
  idv_letters := hid
  enc_unfinished := by rcases hm with hm | hm <;> simp [hm]
  dec_no_identifier := by rcases hm with hm | hm <;> simp [hm]
  err_code := he

/-- R105: `IDV` is set for four letters only. -/
theorem idLoadEffect_keeps_inv (w : Word) {s : State} (hm : s.mode = .idle) : Inv (idLoadEffect w s) := by
  unfold idLoadEffect
  split
  · next hw => exact inv_of_noFrame (.inl hm) (fun _ => hw) (show (resultBits .ok).toNat ≤ 5 by decide)
  · exact inv_of_noFrame (.inl hm) nofun (show (resultBits .invalidByte).toNat ≤ 5 by decide)

/-- R143: the encode it begins has an Identifier, a length above 0 and no byte yet. -/
theorem encStartEffect_keeps_inv (L : Word) {s : State} (h : Inv s) : Inv (encStartEffect L s) := by
  cases hv : s.idv with
  | false =>
    rw [encStartEffect_noIdentifier L hv]
    exact inv_of_noFrame (.inl rfl) h.idv_letters (show (resultBits .invalidIdentifier).toNat ≤ 5 by decide)
  | true =>
    by_cases hL : L = 0
    · subst hL
      rw [encStartEffect_empty hv]
      exact inv_of_noFrame (.inl rfl) h.idv_letters (show (resultBits .ok).toNat ≤ 5 by decide)
    · rw [encStartEffect_nonempty hv hL]
      have hpos : 0 < L.toNat := Nat.pos_of_ne_zero fun h0 => hL (BitVec.eq_of_toNat_eq h0)
      exact ⟨h.idv_letters, fun _ => ⟨hv, hpos, hpos⟩, nofun, h.err_code⟩

/-- R145: a byte that is not the last leaves `CNT` below `LEN`. -/
theorem encByteEffect_keeps_inv (b : Byte) {s : State} (h : Inv s) (hm : s.mode = .enc) :
    Inv (encByteEffect b s) := by
  obtain ⟨hv, hpos, hlt⟩ := h.enc_unfinished hm
  rw [encByteEffect_eq b h hm]
  split
  · exact inv_of_noFrame (.inl rfl) h.idv_letters (show (resultBits .ok).toNat ≤ 5 by decide)
  · next hmore =>
    have hcnt : (s.cnt + 1#33).toNat = s.cnt.toNat + 1 := by
      have hlen := s.len.isLt
      rw [BitVec.toNat_add, BitVec.toNat_ofNat]
      omega
    refine ⟨h.idv_letters, fun _ => ⟨hv, hpos, ?_⟩, h.dec_no_identifier, h.err_code⟩
    change (s.cnt + 1#33).toNat < s.len.toNat
    omega

/-- R164: `IDR` may be changed, but no Identifier is valid during a decode. -/
theorem decByteEffect_keeps_inv (b : Byte) {s : State} (h : Inv s) (hm : s.mode = .dec) : Inv (decByteEffect b s) := by
  have hno := h.dec_no_identifier hm
  exact ⟨by simp [hno], by simp [hm], by simp [hno], by simpa using h.err_code⟩

/-- R168: `IDV` is set only after the letter test; a failure leaves it 0. -/
theorem decEndEffect_keeps_inv {s : State} (h : Inv s) : Inv (decEndEffect s) := by
  have hfail (c : ResultCode) (hc : (resultBits c).toNat ≤ 5) : Inv (raiseFailure c s) :=
    inv_of_noFrame (.inl rfl) h.idv_letters hc
  unfold decEndEffect
  split
  · exact hfail .truncated (by decide)
  split
  · exact hfail .lengthMismatch (by decide)
  split
  · exact hfail .invalidIdentifier (by decide)
  split
  · exact hfail .checksumMismatch (by decide)
  next hid _ => exact inv_of_noFrame (.inl rfl) (fun _ => not_not.1 hid) (show (resultBits .ok).toNat ≤ 5 by decide)

/-- Every command in sequence keeps the invariants. -/
theorem effectOf_keeps_inv {i : Instr} {s : State} (h : Inv s) (hm : allowedIn i s.mode = true) :
    Inv (effectOf i s) := by
  cases i with
  | nop => exact h
  | idLoad w => exact idLoadEffect_keeps_inv w (eq_of_beq hm)
  | crcStart => exact inv_of_noFrame (.inr rfl) h.idv_letters h.err_code
  | crcByte b => exact inv_of_noFrame (.inr (eq_of_beq hm)) h.idv_letters h.err_code
  | crcEnd => exact inv_of_noFrame (.inl rfl) h.idv_letters (show (resultBits .ok).toNat ≤ 5 by decide)
  | encStart L => exact encStartEffect_keeps_inv L h
  | encByte b => exact encByteEffect_keeps_inv b h (eq_of_beq hm)
  | decStart => exact ⟨nofun, nofun, fun _ => rfl, h.err_code⟩
  | decByte b => exact decByteEffect_keeps_inv b h (eq_of_beq hm)
  | decEnd => exact decEndEffect_keeps_inv h

/-- Settles O28: the invariants of the reset registers. -/
theorem resetMeetsTheInvariants : Obligations.ResetMeetsTheInvariants := by
  unfold Obligations.ResetMeetsTheInvariants
  exact inv_of_noFrame (.inl rfl) nofun (by decide)

/-- Settles O27: a command in sequence by `effectOf_keeps_inv`, a reset by its registers; every other step leaves the
registers the invariants speak of (`step_registers_cases`). -/
theorem stepKeepsTheInvariants : Obligations.StepKeepsTheInvariants := by
  unfold Obligations.StepKeepsTheInvariants
  intro s t h hs
  rcases step_registers_cases hs with
    ⟨hmode, -, herr, hidr, hidv, hlen, hcnt, -⟩ | ⟨-, rest, i, -, -, -, hm, rfl⟩ | ⟨rest, -, rfl⟩
  · exact inv_of_registers_eq h hmode herr hidr hidv hlen hcnt
  · exact effectOf_keeps_inv (inv_of_registers_eq h rfl rfl rfl rfl rfl rfl) hm
  · exact inv_of_registers_eq resetMeetsTheInvariants rfl rfl rfl rfl rfl rfl

/-! #### The writers of each register -/

/-- The complete list of `MODE` changes by a command (44_system.md, section 3). -/
def ModeChange (i : Instr) (s t : State) : Prop :=
  (i = .crcStart ∧ s.mode = .idle ∧ t.mode = .crc) ∨
  (i = .crcEnd ∧ s.mode = .crc ∧ t.mode = .idle) ∨
  ((∃ L, i = .encStart L ∧ L ≠ 0) ∧ s.idv = true ∧ s.mode = .idle ∧ t.mode = .enc) ∨
  ((∃ b, i = .encByte b) ∧ s.cnt.toNat + 1 = s.len.toNat ∧ s.mode = .enc ∧ t.mode = .idle) ∨
  (i = .decStart ∧ s.mode = .idle ∧ t.mode = .dec) ∨
  (i = .decEnd ∧ s.mode = .dec ∧ t.mode = .idle)

/-- R143: only with an Identifier and a payload to come does `ENC_START` leave IDLE. -/
theorem encStartEffect_mode (L : Word) {s : State} (hm : s.mode = .idle) (h : (encStartEffect L s).mode ≠ s.mode) :
    L ≠ 0 ∧ s.idv = true ∧ (encStartEffect L s).mode = .enc := by
  simp only [encStartEffect] at h ⊢
  split_ifs at h ⊢ with hv hL
  · exact absurd hm.symm h
  · exact ⟨hL, hv, rfl⟩
  · exact absurd hm.symm h

/-- A command in sequence changes `MODE` only as the list says. -/
theorem effectOf_mode {i : Instr} {s : State} (hm : allowedIn i s.mode = true)
    (h : (effectOf i s).mode ≠ s.mode) : ModeChange i s (effectOf i s) := by
  cases i with
  | nop | crcByte _ => exact absurd rfl h
  | idLoad w => exact absurd (idLoadEffect_mode w s) h
  | decByte b => exact absurd (decByteEffect_mode b s) h
  | crcStart => exact .inl ⟨rfl, eq_of_beq hm, rfl⟩
  | crcEnd => exact .inr (.inl ⟨rfl, eq_of_beq hm, rfl⟩)
  | encStart L =>
    obtain ⟨hL, hv, henc⟩ := encStartEffect_mode L (eq_of_beq hm) h
    exact .inr (.inr (.inl ⟨⟨L, rfl, hL⟩, hv, eq_of_beq hm, henc⟩))
  | encByte b =>
    simp only [effectOf, ModeChange, encByteEffect_mode] at h ⊢
    split_ifs at h ⊢ with hlast
    · exact .inr (.inr (.inr (.inl ⟨⟨b, rfl⟩, hlast, eq_of_beq hm, rfl⟩)))
    · exact absurd rfl h
  | decStart => exact .inr (.inr (.inr (.inr (.inl ⟨rfl, eq_of_beq hm, rfl⟩))))
  | decEnd => exact .inr (.inr (.inr (.inr (.inr ⟨rfl, eq_of_beq hm, decEndEffect_mode s⟩))))

/-- Settles O22: a change of `MODE` is a reset's or that of a command in sequence, which `effectOf_mode` lists. -/
theorem modeChangesOnlyAsListed : Obligations.ModeChangesOnlyAsListed := by
  unfold Obligations.ModeChangesOnlyAsListed
  intro s t hs hne
  rcases step_registers_cases hs with ⟨hmode, -⟩ | ⟨w, rest, i, hi, hd, hf, hm, rfl⟩ | ⟨rest, hi, rfl⟩
  · exact absurd hmode hne
  · exact .inr ⟨w, rest, i, hi, hd, hf, effectOf_mode (s := { s with inputs := rest }) hm hne⟩
  · exact .inl ⟨rfl, rest, hi⟩

section Writers

variable {i : Instr} {s : State}

/-- The writers of `ERR`: the commands that can end an operation. -/
theorem effectOf_err (h : (effectOf i s).err ≠ s.err) :
    (∃ w, i = .idLoad w) ∨ i = .crcEnd ∨ (∃ L, i = .encStart L) ∨ (∃ b, i = .encByte b) ∨ i = .decEnd := by
  cases i with
  | nop | crcStart | crcByte _ | decStart => exact absurd rfl h
  | decByte b => exact absurd (decByteEffect_err b s) h
  | idLoad _ | crcEnd | encStart _ | encByte _ | decEnd => simp

/-- The writers of `IDR`. -/
theorem effectOf_idr (h : (effectOf i s).idr ≠ s.idr) :
    (∃ w, i = .idLoad w) ∨ i = .decStart ∨ (∃ b, i = .decByte b ∧ 4 ≤ s.cnt.toNat ∧ s.cnt.toNat < 8) := by
  cases i with
  | nop | crcStart | crcByte _ | crcEnd => exact absurd rfl h
  | encStart L => exact absurd (encStartEffect_idr L s) h
  | encByte b => exact absurd (encByteEffect_idr b s) h
  | decEnd => exact absurd (decEndEffect_idr s) h
  | idLoad _ | decStart => simp
  | decByte b =>
    obtain ⟨-, hidr, -⟩ := decByteEffect_offsets b s
    exact .inr (.inr ⟨b, rfl, hidr h⟩)

/-- The writers of `IDV`. -/
theorem effectOf_idv (h : (effectOf i s).idv ≠ s.idv) : (∃ w, i = .idLoad w) ∨ i = .decStart ∨ i = .decEnd := by
  cases i with
  | nop | crcStart | crcByte _ | crcEnd => exact absurd rfl h
  | encStart L => exact absurd (encStartEffect_idv L s) h
  | encByte b => exact absurd (encByteEffect_idv b s) h
  | decByte b => exact absurd (decByteEffect_idv b s) h
  | idLoad _ | decStart | decEnd => simp

/-- The writers of `LEN`. -/
theorem effectOf_len (h : (effectOf i s).len ≠ s.len) :
    (∃ L, i = .encStart L ∧ s.idv = true) ∨ i = .decStart ∨ (∃ b, i = .decByte b ∧ s.cnt.toNat < 4) := by
  cases i with
  | nop | crcStart | crcByte _ | crcEnd => exact absurd rfl h
  | idLoad w => exact absurd (idLoadEffect_len w s) h
  | encStart L =>
    refine .inl ⟨L, rfl, Bool.eq_true_of_not_eq_false fun hv => h ?_⟩
    exact (encStartEffect_frame_noIdentifier L s hv).1
  | encByte b => exact absurd (encByteEffect_len b s) h
  | decStart => simp
  | decByte b =>
    obtain ⟨hlen, -⟩ := decByteEffect_offsets b s
    exact .inr (.inr ⟨b, rfl, hlen h⟩)
  | decEnd => exact absurd (decEndEffect_len s) h

/-- The writers of `CNT`. -/
theorem effectOf_cnt (h : (effectOf i s).cnt ≠ s.cnt) :
    i = .crcStart ∨ (∃ b, i = .crcByte b) ∨ (∃ L, i = .encStart L ∧ s.idv = true) ∨ (∃ b, i = .encByte b)
      ∨ i = .decStart ∨ (∃ b, i = .decByte b) := by
  cases i with
  | nop | crcEnd => exact absurd rfl h
  | idLoad w => exact absurd (idLoadEffect_cnt w s) h
  | encStart L =>
    refine .inr (.inr (.inl ⟨L, rfl, Bool.eq_true_of_not_eq_false fun hv => h ?_⟩))
    exact (encStartEffect_frame_noIdentifier L s hv).2.1
  | decEnd => exact absurd (decEndEffect_cnt s) h
  | crcStart | crcByte _ | encByte _ | decStart | decByte _ => simp

/-- The writers of `CRC`. -/
theorem effectOf_crc (h : (effectOf i s).crc ≠ s.crc) :
    i = .crcStart ∨ (∃ b, i = .crcByte b) ∨ (∃ L, i = .encStart L ∧ s.idv = true) ∨ (∃ b, i = .encByte b)
      ∨ i = .decStart ∨ (∃ b, i = .decByte b ∧ 4 ≤ s.cnt.toNat ∧ s.cnt.toNat < 8 + s.len.toNat) := by
  cases i with
  | nop | crcEnd => exact absurd rfl h
  | idLoad w => exact absurd (idLoadEffect_crc w s) h
  | encStart L =>
    refine .inr (.inr (.inl ⟨L, rfl, Bool.eq_true_of_not_eq_false fun hv => h ?_⟩))
    exact (encStartEffect_frame_noIdentifier L s hv).2.2
  | decByte b =>
    obtain ⟨-, -, hcrc, -⟩ := decByteEffect_offsets b s
    exact .inr (.inr (.inr (.inr (.inr ⟨b, rfl, hcrc h⟩))))
  | decEnd => exact absurd (decEndEffect_crc s) h
  | crcStart | crcByte _ | encByte _ | decStart => simp

/-- The writers of `CKR`. -/
theorem effectOf_ckr (h : (effectOf i s).ckr ≠ s.ckr) :
    i = .decStart ∨ (∃ b, i = .decByte b ∧ 8 + s.len.toNat ≤ s.cnt.toNat ∧ s.cnt.toNat < 12 + s.len.toNat) := by
  cases i with
  | nop | crcStart | crcByte _ | crcEnd => exact absurd rfl h
  | idLoad w => exact absurd (idLoadEffect_ckr w s) h
  | encStart L => exact absurd (encStartEffect_ckr L s) h
  | encByte b => exact absurd (encByteEffect_ckr b s) h
  | decStart => simp
  | decByte b =>
    obtain ⟨-, -, -, hckr⟩ := decByteEffect_offsets b s
    exact .inr ⟨b, rfl, hckr h⟩
  | decEnd => exact absurd (decEndEffect_ckr s) h

/-- The writers of `MODE`, of the list of its changes. -/
theorem ModeChange.writer {t : State} (h : ModeChange i s t) :
    i = .crcStart ∨ i = .crcEnd ∨ (∃ L, i = .encStart L) ∨ (∃ b, i = .encByte b) ∨ i = .decStart ∨ i = .decEnd := by
  rcases h with ⟨hi, -⟩ | ⟨hi, -⟩ | ⟨⟨L, hi, -⟩, -⟩ | ⟨⟨b, hi⟩, -⟩ | ⟨hi, -⟩ | ⟨hi, -⟩ <;> simp [hi]

end Writers

/-- Settles O21: the ports by `exec_ports`; a command that is ignored writes nothing, one out of sequence `FAULT` alone,
and one in sequence the registers of the lemmas of its section. -/
theorem onlyWritersChangeARegister : Obligations.OnlyWritersChangeARegister := by
  unfold Obligations.OnlyWritersChangeARegister
  intro i s t h
  obtain ⟨hin, htaken, hdraws, hp⟩ := exec_ports h
  refine ⟨hin, htaken, hdraws, hp, ?_⟩
  rcases exec_cases h with ⟨-, rfl⟩ | ⟨hf, -, rfl⟩ | ⟨hf, hm, rfl⟩
  · simp
  · simp [hf]
    rfl
  · exact ⟨fun hne => (effectOf_mode hm hne).writer, effectOf_err, effectOf_idr, effectOf_idv, effectOf_len,
      effectOf_cnt, effectOf_crc, effectOf_ckr, fun hne => absurd (effectOf_fault i s) hne⟩

/-! #### The causes of the failures -/

/-- The table of causes of 60_exceptions.md, section 1: the command that reports a code, and the condition on the
registers it reports it under; no command reports a code without a cause. -/
def FailureCause (i : Instr) (s : State) : ResultCode → Prop
  | .truncated => i = .decEnd ∧ s.cnt.toNat < 12
  | .lengthMismatch => i = .decEnd ∧ 12 ≤ s.cnt.toNat ∧ s.cnt.toNat ≠ s.len.toNat + 12
  | .invalidIdentifier =>
    (i = .decEnd ∧ s.cnt.toNat = s.len.toNat + 12 ∧ lettersOk s.idr = false) ∨ (∃ L, i = .encStart L ∧ s.idv = false)
  | .checksumMismatch =>
    i = .decEnd ∧ s.cnt.toNat = s.len.toNat + 12 ∧ lettersOk s.idr = true ∧ s.ckr ≠ s.crc ^^^ 0xFFFFFFFF#32
  | .invalidByte => ∃ w, i = .idLoad w ∧ lettersOk w = false
  | _ => False

/-- From `s` to `t` a command ends with the verdict `OK`. -/
def EndsOk (s t : State) : Prop := ∃ es v, t.pending = s.pending ++ es ++ [.done .ok v]

/-- From `s` to `t` the command `i` fails: its one event is `DONE` with a code that has its cause, and `val` 0. -/
def Fails (i : Instr) (s t : State) : Prop := ∃ c, t.pending = s.pending ++ [.done c 0] ∧ FailureCause i s c

theorem finishFrame_endsOk {s t : State} {es : List Event} (h : t.pending = s.pending ++ es) :
    EndsOk s (finishFrame t) :=
  ⟨es ++ outs (be32 (crcFinal t.crc)), crcFinal t.crc, by simp [finishFrame_eq, h]⟩

/-- R168: the four failures in the source's order, each under its cause, else `OK`. -/
theorem decEndEffect_verdict (s : State) : EndsOk s (decEndEffect s) ∨ Fails .decEnd s (decEndEffect s) := by
  by_cases hshort : s.cnt.toNat < 12
  · exact .inr ⟨.truncated, by rw [decEndEffect_truncated hshort]; rfl, rfl, hshort⟩
  by_cases hlen : s.cnt.toNat = s.len.toNat + 12
  · cases hid : lettersOk s.idr with
    | false =>
      exact .inr ⟨.invalidIdentifier, by rw [decEndEffect_invalidIdentifier hlen hid]; rfl, .inl ⟨rfl, hlen, hid⟩⟩
    | true =>
      by_cases hck : s.ckr = crcFinal s.crc
      · exact .inl ⟨[], s.len, by rw [decEndEffect_ok hlen hid hck, List.append_nil]; rfl⟩
      · exact .inr ⟨.checksumMismatch, by rw [decEndEffect_checksumMismatch hlen hid hck]; rfl, rfl, hlen, hid, hck⟩
  · have hlong := Nat.le_of_not_lt hshort
    exact .inr ⟨.lengthMismatch, by rw [decEndEffect_lengthMismatch hlong hlen]; rfl, rfl, hlong, hlen⟩

/-- Every command in sequence leaves the operation open, ends it with `OK`, or fails for a cause of the table. -/
theorem effectOf_verdict (i : Instr) (s : State) :
    EmitsNoDone s (effectOf i s) ∨ EndsOk s (effectOf i s) ∨ Fails i s (effectOf i s) := by
  cases i with
  | nop | crcStart | crcByte _ | decStart => exact .inl (.of_no_events rfl rfl)
  | decByte b => exact .inl (decByteEffect_emitsNoDone b s)
  | decEnd => exact .inr (decEndEffect_verdict s)
  | crcEnd => exact .inr (.inl ⟨[], crcFinal s.crc, by rw [List.append_nil]; rfl⟩)
  | idLoad w =>
    simp only [effectOf, idLoadEffect]
    split
    · exact .inr (.inl ⟨[], flagsWord (idFlags w), by rw [List.append_nil]; rfl⟩)
    · next hw => exact .inr (.inr ⟨.invalidByte, rfl, w, rfl, Bool.eq_false_iff.2 hw⟩)
  | encStart L =>
    cases hv : s.idv with
    | false =>
      rw [effectOf, encStartEffect_noIdentifier L hv]
      exact .inr (.inr ⟨.invalidIdentifier, rfl, .inr ⟨L, rfl, hv⟩⟩)
    | true =>
      by_cases hL : L = 0
      · subst hL
        rw [effectOf, encStartEffect_empty hv]
        exact .inr (.inl (finishFrame_endsOk rfl))
      · rw [effectOf, encStartEffect_nonempty hv hL]
        exact .inl ⟨rfl, _, rfl, isDone_of_mem_outs⟩
  | encByte b =>
    simp only [effectOf, encByteEffect]
    split
    · exact .inr (.inl (finishFrame_endsOk rfl))
    · exact .inl ⟨rfl, [.out b], rfl, by simp [isDone]⟩

/-- A stream that ends with a `DONE` has not had only other events added to it. -/
theorem emitsNoDone_not_done {s t : State} {es : List Event} {c : ResultCode} {v : Word} (h : EmitsNoDone s t)
    (hp : t.pending = s.pending ++ es ++ [.done c v]) : False := by
  obtain ⟨-, es', hes', hno⟩ := h
  rw [hes', List.append_assoc, List.append_cancel_left_eq] at hp
  have hdone := hno (.done c v) (by simp [hp])
  cases hdone

/-- Settles O24: of the three verdicts of `effectOf_verdict`, the last event decides. -/
theorem failureCodesHaveTheirCauses : Obligations.FailureCodesHaveTheirCauses := by
  unfold Obligations.FailureCodesHaveTheirCauses
  intro i s t es c v h hp hc
  rcases exec_cases h with ⟨-, rfl⟩ | ⟨-, -, rfl⟩ | ⟨-, -, rfl⟩
  · exact (emitsNoDone_not_done (.of_no_events rfl rfl) hp).elim
  · exact (emitsNoDone_not_done (.of_no_events rfl rfl) hp).elim
  · rcases effectOf_verdict i s with hno | ⟨es', v', hok⟩ | ⟨c', hfail, hcause⟩
    · exact (emitsNoDone_not_done hno hp).elim
    · obtain ⟨-, hlast⟩ := List.append_inj' (hok.symm.trans hp) rfl
      cases hlast
      exact absurd rfl hc
    · obtain ⟨-, hlast⟩ := List.append_inj' (hfail.symm.trans hp) rfl
      cases hlast
      exact ⟨rfl, hfail, hcause⟩

end Sys2Proof.Machine
end

/-! ### The checksum function and the letters (41_crc.md, 40_identifier.md) -/
section

namespace Sys2Proof.Machine

open Sys2Proof.Safety

/-- Settles O31: the definition of a letter, and the case bit over the 256 bytes. -/
theorem caseBitOfALetter : Obligations.CaseBitOfALetter := by
  unfold Obligations.CaseBitOfALetter
  constructor
  · intro b
    simp [isLetter]
  · decide +kernel

/-! #### `crc_step` loses nothing -/

/-- An iteration takes only 0 to 0: the polynomial has bit 31, which a right shift clears. -/
theorem crcBit_eq_zero {x : Word} (h : crcBit x = 0) : x = 0 := by
  cases hx : x.getLsbD 0 with
  | true =>
    have htop : (crcBit x).getLsbD 31 = true := by simp [crcBit, hx, Config.crcPolyReflected]
    rw [h] at htop
    cases htop
  | false =>
    have hshift : x >>> 1 = 0 := by rwa [crcBit, hx, if_neg Bool.false_ne_true] at h
    apply BitVec.eq_of_toNat_eq
    have hlow : x.toNat % 2 = 0 := by simpa [BitVec.getLsbD, Nat.testBit_zero] using hx
    have hhigh : x.toNat / 2 = 0 := by simpa [Nat.shiftRight_eq_div_pow] using congrArg BitVec.toNat hshift
    change x.toNat = 0
    omega

/-- An iteration is injective: it is linear, and only 0 goes to 0. -/
theorem crcBit_injective : Function.Injective crcBit := by
  intro x y h
  rw [← BitVec.xor_eq_zero_iff]
  apply crcBit_eq_zero
  rw [crcBit_xor, h, BitVec.xor_self]
  rfl

/-- Any number of iterations is injective. -/
theorem crcBits_injective (n : Nat) : Function.Injective (crcBits n) := by
  induction n with
  | zero => exact fun _ _ h => h
  | succ n ih => exact fun _ _ h => crcBit_injective (ih h)

/-- `crc_step` is injective in the register. -/
theorem crcStep_injective_register (b : Byte) : Function.Injective fun c => crcStep c b :=
  fun _ _ h => (BitVec.xor_left_inj _).1 (crcBits_injective 8 h)

/-- `crc_step` is injective in the byte. -/
theorem crcStep_injective_byte (c : Word) : Function.Injective (crcStep c) := by
  intro b b' h
  have hword : b.setWidth 32 = b'.setWidth 32 := (BitVec.xor_right_inj _).1 (crcBits_injective 8 h)
  have hback := congrArg (BitVec.setWidth 8) hword
  simpa using hback

/-- Any bytes keep two different register values apart. -/
theorem foldl_crcStep_injective (bs : List Byte) : Function.Injective fun c => bs.foldl crcStep c := by
  induction bs with
  | nil => exact fun _ _ h => h
  | cons b bs ih => exact fun _ _ h => crcStep_injective_register b (ih h)

/-- The final exclusive-or loses nothing (R122). -/
theorem crcFinal_injective : Function.Injective crcFinal := fun _ _ h => (BitVec.xor_left_inj _).1 h

/-- One byte changed changes the checksum. -/
theorem crc32_ne_of_byte_ne {b b' : Byte} (h : b ≠ b') (pre post : List Byte) :
    crc32 (pre ++ b :: post) ≠ crc32 (pre ++ b' :: post) := by
  intro hcrc
  have hfold := crcFinal_injective hcrc
  rw [crcFold_append, crcFold_append] at hfold
  exact h (crcStep_injective_byte _ (foldl_crcStep_injective post hfold))

/-- Settles O32: injective in the register and in the byte; on the finite set of register values injective is
surjective. -/
theorem crcStepIsABijection : Obligations.CrcStepIsABijection := by
  unfold Obligations.CrcStepIsABijection
  have : Finite Word := Finite.of_injective BitVec.toFin fun _ _ => BitVec.eq_of_toFin_eq
  exact ⟨fun b _ _ h => crcStep_injective_register b h,
    fun b => Finite.surjective_of_injective (crcStep_injective_register b),
    fun c _ _ h => crcStep_injective_byte c h⟩

/-- Settles O33: `crc32_ne_of_byte_ne`. -/
theorem oneByteChangedChangesTheChecksum : Obligations.OneByteChangedChangesTheChecksum := by
  unfold Obligations.OneByteChangedChangesTheChecksum
  exact fun pre post _ _ h => crc32_ne_of_byte_ne h pre post

/-! #### The residue -/

/-- As long as only 0 bits are shifted out, the iterations are a shift. -/
theorem crcBits_of_low_zero (n : Nat) :
    ∀ z : Word, (∀ i < n, z.getLsbD i = false) → crcBits n z = z >>> n := by
  induction n with
  | zero => exact fun z _ => (BitVec.ushiftRight_zero z).symm
  | succ n ih =>
    intro z hz
    have hbit : crcBit z = z >>> 1 := by rw [crcBit, hz 0 n.succ_pos, if_neg Bool.false_ne_true]
    rw [crcBits, hbit, ih, ← BitVec.shiftRight_add, Nat.add_comm]
    intro i hi
    rw [BitVec.getLsbD_ushiftRight, Nat.add_comm]
    exact hz (i + 1) (by omega)

/-- The low byte of a word, fed to the register that holds the word but for a mask, is cancelled: what is left is the
rest of the word, and the mask fed with 0. -/
theorem crcStep_lowByte (d m : Word) : crcStep (d ^^^ m) (d.setWidth 8) = (d >>> 8) ^^^ crcBits 8 m := by
  have hrest : crcStep d (d.setWidth 8) = d >>> 8 := by
    have hlow : ∀ i < 8, (d ^^^ (d.setWidth 8).setWidth 32).getLsbD i = false := by
      intro i hi
      simp [hi, show i < 32 by omega]
    rw [crcStep, crcBits_of_low_zero 8 _ hlow]
    ext i hi
    simp
  rw [crcStep_xor, hrest]

/-- The checksum's bytes, least significant first, fed to the register that holds the checksum but for a mask. -/
theorem foldl_crcStep_reverse_be32 (d m : Word) : (be32 d).reverse.foldl crcStep (d ^^^ m) = crcBits 32 m := by
  have h0 : wordByte 3 d = d.setWidth 8 := by ext i hi; simp [wordByte]
  have h1 : wordByte 2 d = (d >>> 8).setWidth 8 := by ext i hi; simp [wordByte]
  have h2 : wordByte 1 d = (d >>> 8 >>> 8).setWidth 8 := by ext i hi; simp [wordByte]
  have h3 : wordByte 0 d = (d >>> 8 >>> 8 >>> 8).setWidth 8 := by ext i hi; simp [wordByte]
  have hgone : d >>> 8 >>> 8 >>> 8 >>> 8 = 0#32 := by ext i hi; simp
  simp only [be32, List.reverse_cons, List.reverse_nil, List.nil_append, List.cons_append, List.foldl_cons,
    List.foldl_nil, h0, h1, h2, h3, crcStep_lowByte, hgone, BitVec.zero_xor]
  rfl

/-- Settles O34: the register is the checksum but for the final mask, so the checksum's bytes cancel it and leave the
mask fed with 32 bits of 0. -/
theorem checksumResidue : Obligations.ChecksumResidue := by
  unfold Obligations.ChecksumResidue
  intro s
  have hreg : crcFold s = crc32 s ^^^ Config.crcXorOut := by
    rw [crc32, crcFinal, BitVec.xor_assoc, BitVec.xor_self, BitVec.xor_zero]
  rw [crcFold_append, hreg, foldl_crcStep_reverse_be32]
  decide +kernel

end Sys2Proof.Machine
end

/-! ### Frames as byte sequences: `serialize` and `parse` (42_encoder.md, 43_decoder.md) -/
section

namespace Sys2Proof.Machine

open Sys2Proof.Safety

/-! #### Four bytes as a word -/

/-- `be32` and `from_be32` are inverses (R7), on any four bytes. -/
theorem be32_fromBe32List {a : List Byte} (h : a.length = 4) : be32 (fromBe32List a) = a := by
  obtain ⟨b0, b1, b2, b3, rfl⟩ := List.length_eq_four.1 h
  exact be32_fromBe32 b0 b1 b2 b3

/-- Two different fields of four bytes hold two different numbers. -/
theorem fromBe32List_ne {a a' : List Byte} (h : a.length = 4) (h' : a'.length = 4) (hne : a' ≠ a) :
    fromBe32List a' ≠ fromBe32List a := by
  intro heq
  rw [← be32_fromBe32List h, ← be32_fromBe32List h', heq] at hne
  exact hne rfl

/-- `letters_ok` of four bytes (R102). -/
theorem lettersOk_fromBe32List {a : List Byte} (h : a.length = 4) : lettersOk (fromBe32List a) = a.all isLetter := by
  obtain ⟨b0, b1, b2, b3, rfl⟩ := List.length_eq_four.1 h
  simp [fromBe32List, Laws.lettersOk_fromBe32, Bool.and_assoc]

/-! #### `parse` on the four fields of a frame -/

/-- A slice that begins and ends with a part of a sequence is that part (R6). -/
theorem slice_append_mid {x m y : List Byte} {lo hi : Nat} (hlo : x.length = lo) (hhi : lo + m.length = hi) :
    slice (x ++ (m ++ y)) lo hi = m := by
  rw [slice, List.drop_left' hlo, List.take_left' (by omega)]

/-- Every sequence of 12 bytes or more is a length field, an identifier field, a payload and a checksum field. -/
theorem exists_fields {s : List Byte} (h : 12 ≤ s.length) :
    ∃ a b q k : List Byte, a.length = 4 ∧ b.length = 4 ∧ k.length = 4 ∧ s = a ++ (b ++ (q ++ k)) := by
  refine ⟨s.take 4, (s.drop 4).take 4, ((s.drop 4).drop 4).take (s.length - 12),
    ((s.drop 4).drop 4).drop (s.length - 12), by simp; omega, by simp; omega, by simp; omega, ?_⟩
  simp only [List.take_append_drop]

section Fields

variable {a b q k : List Byte} (ha : a.length = 4) (hb : b.length = 4) (hk : k.length = 4)
include ha hb hk

/-- The slices of a frame at the offsets of its fields. -/
theorem slice_fields :
    slice (a ++ (b ++ (q ++ k))) 0 4 = a ∧ slice (a ++ (b ++ (q ++ k))) 4 8 = b
      ∧ slice (a ++ (b ++ (q ++ k))) 8 (8 + q.length) = q
      ∧ slice (a ++ (b ++ (q ++ k))) (8 + q.length) (12 + q.length) = k := by
  refine ⟨slice_append_mid (x := []) rfl (by omega), slice_append_mid ha (by omega), ?_, ?_⟩
  · rw [← List.append_assoc]
    exact slice_append_mid (by simp; omega) (by omega)
  · have hend : a ++ (b ++ (q ++ k)) = (a ++ (b ++ q)) ++ (k ++ []) := by simp
    rw [hend]
    exact slice_append_mid (by simp; omega) (by omega)

/-- The eight steps of R160 over the four fields. -/
theorem parse_fields :
    parse (a ++ (b ++ (q ++ k))) =
      if q.length ≠ (fromBe32List a).toNat then .error .lengthMismatch
      else if ¬ lettersOk (fromBe32List b) then .error .invalidIdentifier
      else if fromBe32List k ≠ crc32 (b ++ q) then .error .checksumMismatch
      else .ok (fromBe32List b, q) := by
  have hlen : (a ++ (b ++ (q ++ k))).length = q.length + 12 := by simp; omega
  obtain ⟨hsa, hsb, hsq, hsk⟩ := slice_fields (q := q) ha hb hk
  simp only [parse, hlen, hsa, hsb, be32_fromBe32List hb, Nat.add_right_cancel_iff, ne_eq]
  rw [if_neg (by omega)]
  by_cases hL : q.length = (fromBe32List a).toNat
  · rw [← hL, hsq, hsk]
  · rw [if_pos hL, if_pos hL]

/-- When `parse` accepts. -/
theorem parse_fields_eq_ok {id : Word} {p : List Byte} :
    parse (a ++ (b ++ (q ++ k))) = .ok (id, p) ↔
      q.length = (fromBe32List a).toNat ∧ lettersOk (fromBe32List b) = true ∧ fromBe32List k = crc32 (b ++ q)
        ∧ fromBe32List b = id ∧ q = p := by
  rw [parse_fields ha hb hk]
  split_ifs with hL hid hck <;> simp_all

end Fields

/-- Fewer than 12 bytes are no frame (R160). -/
theorem parse_truncated {s : List Byte} (h : s.length < 12) : parse s = .error .truncated := if_pos h

/-- A payload that a frame can carry has its length in the length field (R140, R141). -/
theorem ofNat_length_toNat {p : List Byte} (hp : p.length < 2 ^ 32) :
    (BitVec.ofNat 32 p.length).toNat = p.length := by
  rw [BitVec.toNat_ofNat, Nat.mod_eq_of_lt hp]

/-- A frame is its payload and 12 bytes (R140). -/
theorem serialize_length (id : Word) (p : List Byte) : (serialize id p).length = 12 + p.length := by
  simp [serialize, be32_length]
  omega

/-- The four fields of `serialize` pass the three tests of `parse_fields_eq_ok`. -/
theorem parse_serialize {id : Word} {p : List Byte} (hid : lettersOk id = true) (hp : p.length < 2 ^ 32) :
    parse (serialize id p) = .ok (id, p) := by
  rw [serialize, List.append_assoc, List.append_assoc, parse_fields_eq_ok rfl rfl rfl]
  simp only [fromBe32List_be32, ofNat_length_toNat hp, hid, and_self]

/-- Settles O35: `serialize_length` and `parse_serialize`. -/
theorem parseOfSerialize : Obligations.ParseOfSerialize := by
  unfold Obligations.ParseOfSerialize
  exact fun id p hid hp => ⟨serialize_length id p, parse_serialize hid hp⟩

/-! #### One flipped bit -/

/-- A flipped bit in the front part. -/
theorem flipBit_append_left {x : List Byte} {o : Nat} (h : o < x.length) (y : List Byte) (j : Nat) :
    flipBit (x ++ y) o j = flipBit x o j ++ y := by
  induction x generalizing o with
  | nil => cases h
  | cons c x ih =>
    cases o with
    | zero => rfl
    | succ o => exact congrArg (c :: ·) (ih (Nat.lt_of_succ_lt_succ h))

/-- A flipped bit behind the front part. -/
theorem flipBit_append_right {x : List Byte} {o : Nat} (h : x.length ≤ o) (y : List Byte) (j : Nat) :
    flipBit (x ++ y) o j = x ++ flipBit y (o - x.length) j := by
  induction x generalizing o with
  | nil => rfl
  | cons c x ih =>
    cases o with
    | zero => cases h
    | succ o =>
      rw [List.length_cons, Nat.add_sub_add_right]
      exact congrArg (c :: ·) (ih (Nat.le_of_succ_le_succ h))

@[simp] theorem flipBit_length (x : List Byte) (o j : Nat) : (flipBit x o j).length = x.length :=
  List.length_modify _ x o

/-- The one byte that a flipped bit changes. -/
theorem flipBit_eq {x : List Byte} {o : Nat} (h : o < x.length) (j : Nat) :
    ∃ pre c post, x = pre ++ c :: post ∧ pre.length = o ∧ flipBit x o j = pre ++ (c ^^^ 1#8 <<< j) :: post :=
  List.exists_of_modify _ h

/-- A byte with a flipped bit is another byte. -/
theorem xor_bit_ne {j : Nat} (h : j < 8) (c : Byte) : c ^^^ 1#8 <<< j ≠ c := by
  intro heq
  have hbit := congrArg (·.getLsbD j) heq
  simp [h] at hbit

/-- A sequence with a flipped bit is another sequence. -/
theorem flipBit_ne {x : List Byte} {o j : Nat} (h : o < x.length) (hj : j < 8) : flipBit x o j ≠ x := by
  obtain ⟨pre, c, post, hx, -, hflip⟩ := flipBit_eq h j
  rw [hflip, hx]
  simp [xor_bit_ne hj]

/-- One flipped bit changes the checksum. -/
theorem crc32_flipBit_ne {x : List Byte} {o j : Nat} (h : o < x.length) (hj : j < 8) :
    crc32 (flipBit x o j) ≠ crc32 x := by
  obtain ⟨pre, c, post, hx, -, hflip⟩ := flipBit_eq h j
  rw [hflip, hx]
  exact crc32_ne_of_byte_ne (xor_bit_ne hj c) pre post

/-- Of four letters with a bit of one flipped, the letter test is that of the changed byte. -/
theorem lettersOk_flipBit {b : List Byte} {o : Nat} (hb : b.length = 4) (ho : o < 4)
    (hid : lettersOk (fromBe32List b) = true) (j : Nat) :
    lettersOk (fromBe32List (flipBit b o j)) = isLetter (b.getD o 0#8 ^^^ 1#8 <<< j) := by
  obtain ⟨pre, c, post, hx, hpre, hflip⟩ := flipBit_eq (hb.symm ▸ ho) j
  rw [lettersOk_fromBe32List hb, hx] at hid
  rw [lettersOk_fromBe32List (by simp [hb]), hflip, hx]
  simp only [List.all_append, List.all_cons, Bool.and_eq_true] at hid
  obtain ⟨hfront, -, hback⟩ := hid
  simp [hfront, hback, ← hpre]

section Flipped

variable {a b q k : List Byte} (ha : a.length = 4) (hb : b.length = 4) (hk : k.length = 4)
  (hL : q.length = (fromBe32List a).toNat) {o j : Nat} (hj : j < 8)
include ha hb hk hL

/-- A frame of a right length and four letters, with another checksum. -/
theorem parse_wrong_checksum (hid : lettersOk (fromBe32List b) = true) (hck : fromBe32List k ≠ crc32 (b ++ q)) :
    parse (a ++ (b ++ (q ++ k))) = .error .checksumMismatch := by
  rw [parse_fields ha hb hk, if_neg (not_not.2 hL), if_neg (not_not.2 hid), if_pos hck]

include hj

/-- A flipped bit of the length field of a frame. -/
theorem parse_flipped_length (ho : o < 4) : parse (flipBit a o j ++ (b ++ (q ++ k))) = .error .lengthMismatch := by
  rw [parse_fields (by rwa [flipBit_length]) hb hk, if_pos]
  intro heq
  refine fromBe32List_ne ha (by rwa [flipBit_length]) (flipBit_ne (ha.symm ▸ ho) hj) (BitVec.eq_of_toNat_eq ?_)
  rw [← heq, hL]

/-- A flipped bit of the identifier field of a frame: the letter test comes before the checksum test. -/
theorem parse_flipped_identifier (hid : lettersOk (fromBe32List b) = true) (hck : fromBe32List k = crc32 (b ++ q))
    (ho : o < 4) :
    parse (a ++ (flipBit b o j ++ (q ++ k))) =
      if isLetter (b.getD o 0#8 ^^^ 1#8 <<< j) then .error .checksumMismatch else .error .invalidIdentifier := by
  have hb' : (flipBit b o j).length = 4 := by rwa [flipBit_length]
  have hletters := lettersOk_flipBit hb ho hid j
  split
  · next hletter =>
    refine parse_wrong_checksum ha hb' hk hL (hletters.trans hletter) ?_
    rw [hck, ← flipBit_append_left (hb.symm ▸ ho)]
    exact (crc32_flipBit_ne (by simp; omega) hj).symm
  · next hletter =>
    rw [parse_fields ha hb' hk, if_neg (not_not.2 hL), if_pos (by rwa [hletters])]

/-- A flipped bit of the payload or of the checksum field of a frame. -/
theorem parse_flipped_rest (hid : lettersOk (fromBe32List b) = true) (hck : fromBe32List k = crc32 (b ++ q))
    (ho : o < q.length + 4) : parse (a ++ (b ++ flipBit (q ++ k) o j)) = .error .checksumMismatch := by
  by_cases hpay : o < q.length
  · rw [flipBit_append_left hpay]
    refine parse_wrong_checksum ha hb hk (by rwa [flipBit_length]) hid ?_
    have hplace : b ++ flipBit q o j = flipBit (b ++ q) (b.length + o) j := by
      rw [flipBit_append_right (Nat.le_add_right _ _), Nat.add_sub_cancel_left]
    rw [hck, hplace]
    exact (crc32_flipBit_ne (by simpa using hpay) hj).symm
  · rw [flipBit_append_right (Nat.le_of_not_lt hpay)]
    refine parse_wrong_checksum ha hb (by rwa [flipBit_length]) hL hid ?_
    rw [← hck]
    exact fromBe32List_ne hk (by rwa [flipBit_length]) (flipBit_ne (by omega) hj)

end Flipped

/-- Settles O36: the flipped bit is in the length field, the identifier field or behind them. -/
theorem oneFlippedBitIsRefused : Obligations.OneFlippedBitIsRefused := by
  unfold Obligations.OneFlippedBitIsRefused
  intro f id p o j hf hj ho
  have hlong : 12 ≤ f.length := by
    by_contra hshort
    rw [parse_truncated (by omega)] at hf
    cases hf
  obtain ⟨a, b, q, k, ha, hb, hk, rfl⟩ := exists_fields hlong
  obtain ⟨hL, hid, hck, -⟩ := (parse_fields_eq_ok ha hb hk).1 hf
  have hidentifier (hlo : 4 ≤ o) (hhi : o < 8) :
      parse (flipBit (a ++ (b ++ (q ++ k))) o j) =
        if isLetter ((a ++ (b ++ (q ++ k))).getD o 0#8 ^^^ 1#8 <<< j) then .error .checksumMismatch
        else .error .invalidIdentifier := by
    rw [flipBit_append_right (by omega), flipBit_append_left (by omega), List.getD_append_right _ _ _ _ (by omega),
      List.getD_append _ _ _ _ (by omega)]
    exact parse_flipped_identifier ha hb hk hL hj hid hck (by omega)
  refine ⟨fun hlo => ?_, fun hlo hhi hletter => ?_, fun hlo hhi hletter => ?_, fun hlo => ?_⟩
  · rw [flipBit_append_left (by omega)]
    exact parse_flipped_length ha hb hk hL hj hlo
  · rw [hidentifier hlo hhi, if_neg (Bool.eq_false_iff.1 hletter)]
  · rw [hidentifier hlo hhi, if_pos hletter]
  · rw [flipBit_append_right (by omega), flipBit_append_right (by omega)]
    simp only [List.length_append] at ho
    exact parse_flipped_rest ha hb hk hL hj hid hck (by omega)

end Sys2Proof.Machine
end

/-! ### The host software: containers of frames (80_host.md) -/
section

namespace Sys2Proof.Machine

open Sys2Proof.Safety

/-! #### A sequence of frames and its parse -/

/-- The frames of a chunk sequence, in order (R259). -/
def frames (cs : List Chunk) : List Byte := cs.flatMap fun c => serialize c.identifier c.payload

@[simp] theorem frames_nil : frames [] = [] := rfl

@[simp] theorem frames_cons (c : Chunk) (cs : List Chunk) :
    frames (c :: cs) = serialize c.identifier c.payload ++ frames cs := by
  simp [frames]

/-- Every frame has bytes. -/
theorem length_le_frames_length (cs : List Chunk) : cs.length ≤ (frames cs).length := by
  induction cs with
  | nil => exact Nat.le_refl 0
  | cons c cs ih =>
    simp only [frames_cons, List.length_append, List.length_cons, serialize_length]
    omega

/-- The host hands the decoder exactly the first frame of the bytes (R254). -/
theorem sliceLength_serialize {p : List Byte} (hp : p.length < 2 ^ 32) (id : Word) (rest : List Byte) :
    sliceLength (serialize id p ++ rest) = (serialize id p).length := by
  have hlen : (serialize id p ++ rest).length = 12 + p.length + rest.length := by
    rw [List.length_append, serialize_length]
  have hfield : fromBe32List (serialize id p ++ rest) = BitVec.ofNat 32 p.length :=
    fromBe32List_be32 (BitVec.ofNat 32 p.length)
  rw [sliceLength, if_pos (by omega), hlen, hfield, ofNat_length_toNat hp, serialize_length]
  omega

/-- One turn of the chunk loop on a frame: the terminal identifier ends it, any other chunk is followed by the rest. -/
theorem parseChunks_serialize {c : Chunk} (hid : lettersOk c.identifier = true) (hp : c.payload.length < 2 ^ 32)
    (fuel : Nat) (rest : List Byte) :
    parseChunks (fuel + 1) (serialize c.identifier c.payload ++ rest) =
      if c.identifier = terminalId then .ok [c] else (parseChunks fuel rest).map (c :: ·) := by
  have hne : serialize c.identifier c.payload ++ rest ≠ [] := by
    refine List.ne_nil_of_length_pos ?_
    rw [List.length_append, serialize_length]
    omega
  rw [parseChunks, if_neg hne, sliceLength_serialize hp, List.take_left, List.drop_left, parse_serialize hid hp]
  cases parseChunks fuel rest <;> rfl

/-- No bytes, no chunks, whatever the fuel. -/
@[simp] theorem parseChunks_nil (fuel : Nat) : parseChunks fuel [] = .ok [] := by
  cases fuel <;> simp [parseChunks]

/-- What a parsable sequence says of its first chunk and of the others. -/
theorem parsableChunks_cons {c : Chunk} {cs : List Chunk} (h : ParsableChunks (c :: cs)) :
    lettersOk c.identifier = true ∧ serializable c.payload = true ∧ (c.identifier = terminalId → cs = [])
      ∧ ParsableChunks cs := by
  cases cs with
  | nil =>
    obtain ⟨hid, hp⟩ := h
    exact ⟨hid, hp, fun _ => rfl, trivial⟩
  | cons d cs =>
    obtain ⟨hid, hp, hno, hrest⟩ := h
    exact ⟨hid, hp, fun hterm => absurd hterm hno, hrest⟩

/-- The frames of a parsable sequence come back, and if its last chunk is a terminal one, whatever follows them. -/
theorem parseChunks_frames {cs : List Chunk} (h : ParsableChunks cs) {trailing : List Byte}
    (ht : trailing = [] ∨ ∃ c, cs.getLast? = some c ∧ c.identifier = terminalId) :
    ∀ fuel, cs.length ≤ fuel → parseChunks fuel (frames cs ++ trailing) = .ok cs := by
  induction cs with
  | nil =>
    obtain rfl : trailing = [] := by simpa using ht
    exact fun fuel _ => parseChunks_nil fuel
  | cons c cs ih =>
    rintro (_ | fuel) hfuel
    · cases hfuel
    obtain ⟨hid, hp, hlast, hrest⟩ := parsableChunks_cons h
    rw [frames_cons, List.append_assoc, parseChunks_serialize hid (of_decide_eq_true hp)]
    split
    · next hterm => rw [hlast hterm]
    · next hno =>
      rw [ih hrest ?_ fuel (Nat.le_of_succ_le_succ hfuel)]
      · rfl
      · refine ht.imp_right ?_
        rintro ⟨d, hd, hterm⟩
        cases cs with
        | nil => cases hd; exact absurd hterm hno
        | cons e cs => exact ⟨d, by rwa [List.getLast?_cons_cons] at hd, hterm⟩

/-- Serializing a container of carriable payloads. -/
theorem serializeContainer_eq_ok {cs : List Chunk} (h : ∀ c ∈ cs, serializable c.payload = true) :
    serializeContainer cs = .ok (Config.signature.toList ++ frames cs) := by
  rw [serializeContainer, if_pos (List.all_eq_true.2 h), frames]

/-- The chunks of a parsable sequence have carriable payloads. -/
theorem serializable_of_parsable {cs : List Chunk} (h : ParsableChunks cs) :
    ∀ c ∈ cs, serializable c.payload = true := by
  induction cs with
  | nil => simp
  | cons c cs ih =>
    obtain ⟨-, hp, -, hrest⟩ := parsableChunks_cons h
    exact List.forall_mem_cons.2 ⟨hp, ih hrest⟩

/-- A container is its signature and its frames (R253). -/
theorem parseContainer_signature (bytes : List Byte) :
    parseContainer (Config.signature.toList ++ bytes) = parseChunks bytes.length bytes := by
  have hsig : Config.signature.toList.length = 8 := by simp
  rw [parseContainer, List.take_left' hsig, List.drop_left' hsig, if_pos rfl]

/-- Serializing a parsable sequence succeeds, and it comes back, with bytes after it if its last chunk is terminal. -/
theorem container_roundTrip {cs : List Chunk} (h : ParsableChunks cs) {trailing : List Byte}
    (ht : trailing = [] ∨ ∃ c, cs.getLast? = some c ∧ c.identifier = terminalId) :
    ∃ bytes, serializeContainer cs = .ok bytes ∧ parseContainer (bytes ++ trailing) = .ok cs := by
  refine ⟨_, serializeContainer_eq_ok (serializable_of_parsable h), ?_⟩
  rw [List.append_assoc, parseContainer_signature]
  refine parseChunks_frames h ht _ ?_
  have := length_le_frames_length cs
  rw [List.length_append]
  omega

/-- Settles O44: `container_roundTrip`, with nothing after the bytes. -/
theorem containerRoundTrip : Obligations.ContainerRoundTrip := by
  unfold Obligations.ContainerRoundTrip
  intro cs h
  obtain ⟨bytes, hser, hparse⟩ := container_roundTrip h (.inl rfl)
  exact ⟨bytes, hser, by rwa [List.append_nil] at hparse⟩

/-! #### Removal -/

/-- `find` returns a chunk exactly when it is the first with the identifier (R256). -/
theorem findByIdentifier_eq_some_iff {id : Word} {cs : List Chunk} {c : Chunk} :
    findByIdentifier id cs = some c ↔
      c.identifier = id ∧ ∃ pre post, cs = pre ++ c :: post ∧ ∀ d ∈ pre, d.identifier ≠ id := by
  simp [findByIdentifier, List.find?_eq_some_iff_append]

/-- `find` returns nothing exactly without a match (R256). -/
theorem findByIdentifier_eq_none_iff {id : Word} {cs : List Chunk} :
    findByIdentifier id cs = none ↔ ∀ d ∈ cs, d.identifier ≠ id := by
  simp [findByIdentifier]

/-- Settles O45: the first match as `findByIdentifier_eq_some_iff` gives it is the one chunk that is taken out. -/
theorem removeTakesTheFirstMatch : Obligations.RemoveTakesTheFirstMatch := by
  unfold Obligations.RemoveTakesTheFirstMatch
  intro id cs
  refine ⟨fun c rest h => ?_, fun hno => ?_, fun ⟨d, hd, hid⟩ => ?_⟩
  · unfold removeByIdentifier at h
    split at h
    · next hfind =>
      obtain ⟨hid, pre, post, rfl, hpre⟩ := findByIdentifier_eq_some_iff.1 hfind
      cases h
      have hrest : (pre ++ c :: post).eraseP (·.identifier == id) = pre ++ post := by
        rw [List.eraseP_append_right _ (by simpa using hpre), List.eraseP_cons_of_pos (by simpa using hid)]
      exact ⟨pre, post, rfl, hrest, hid, hpre, by rw [hrest]; simp; omega⟩
    · cases h
  · rw [removeByIdentifier, findByIdentifier_eq_none_iff.2 hno]
  · cases hfind : findByIdentifier id cs with
    | none => exact absurd hid (findByIdentifier_eq_none_iff.1 hfind d hd)
    | some c => exact ⟨_, by rw [removeByIdentifier, hfind]⟩

/-! #### Append, and the terminal chunk -/

/-- Chunks without the terminal identifier stay in front of the new chunk (R257). -/
theorem appendChunk_append {cs : List Chunk} (h : ∀ d ∈ cs, d.identifier ≠ terminalId) (c : Chunk) (ds : List Chunk) :
    appendChunk c (cs ++ ds) = cs ++ appendChunk c ds := by
  induction cs with
  | nil => rfl
  | cons d cs ih =>
    obtain ⟨hd, hcs⟩ := List.forall_mem_cons.1 h
    rw [List.cons_append, appendChunk, if_neg hd, ih hcs, List.cons_append]

/-- A terminal chunk, and what follows it, stays behind the new chunk (R257). -/
theorem appendChunk_cons_terminal {d : Chunk} (h : d.identifier = terminalId) (c : Chunk) (ds : List Chunk) :
    appendChunk c (d :: ds) = c :: d :: ds := if_pos h

/-- The place of the new chunk: behind chunks that are not terminal, and all of them if none is. -/
theorem appendChunk_eq (c : Chunk) (cs : List Chunk) :
    ∃ pre post, cs = pre ++ post ∧ appendChunk c cs = pre ++ c :: post ∧ ∀ d ∈ pre, d.identifier ≠ terminalId := by
  induction cs with
  | nil => exact ⟨[], [], rfl, rfl, by simp⟩
  | cons d cs ih =>
    by_cases hd : d.identifier = terminalId
    · exact ⟨[], d :: cs, rfl, appendChunk_cons_terminal hd c cs, by simp⟩
    · obtain ⟨pre, post, hcs, happ, hpre⟩ := ih
      exact ⟨d :: pre, post, congrArg (d :: ·) hcs, by rw [appendChunk, if_neg hd, happ, List.cons_append],
        List.forall_mem_cons.2 ⟨hd, hpre⟩⟩

/-- Settles O46: the two places of the new chunk by `appendChunk_append`; for `find`, no chunk before its place
(`appendChunk_eq`) matches. -/
theorem appendGoesBeforeTheTerminalChunk : Obligations.AppendGoesBeforeTheTerminalChunk := by
  unfold Obligations.AppendGoesBeforeTheTerminalChunk
  refine ⟨fun c cs hno => ?_, fun c d cs hno hd => ?_, fun c cs hno => ?_⟩
  · have happ := appendChunk_append hno c []
    rwa [List.append_nil] at happ
  · rw [appendChunk_append hno, appendChunk_cons_terminal hd]
  · obtain ⟨pre, post, rfl, happ, -⟩ := appendChunk_eq c cs
    exact findByIdentifier_eq_some_iff.2 ⟨rfl, pre, post, happ, (List.forall_mem_append.1 hno).1⟩

/-- A finished sequence ends with the terminal chunk (R252). -/
theorem finished_iff {cs : List Chunk} : finished cs = true ↔ ∃ front, cs = front ++ [⟨terminalId, []⟩] := by
  rw [finished, beq_iff_eq, List.getLast?_eq_some_iff, terminalChunk]

/-- Append keeps a finished sequence finished. -/
theorem finished_appendChunk {cs : List Chunk} (h : finished cs = true) (c : Chunk) :
    finished (appendChunk c cs) = true := by
  obtain ⟨front, hfront⟩ := finished_iff.1 h
  obtain ⟨pre, post, hcs, happ, hpre⟩ := appendChunk_eq c cs
  rw [finished_iff, happ]
  rcases List.eq_nil_or_concat post with rfl | ⟨post, d, rfl⟩
  · rw [List.append_nil] at hcs
    exact absurd rfl (hpre ⟨terminalId, []⟩ (by simp [← hcs, hfront]))
  · rw [hfront, List.concat_eq_append, ← List.append_assoc] at hcs
    have hd := List.append_inj_right' hcs (by simp)
    exact ⟨pre ++ c :: post, by simp [← hd]⟩

/-- The frame of a chunk without payload: length 0, the identifier and its checksum. -/
theorem serialize_nil (id : Word) : serialize id [] = [0#8, 0#8, 0#8, 0#8] ++ be32 id ++ be32 (crc32 (be32 id)) := by
  simp [serialize, show be32 0#32 = [0#8, 0#8, 0#8, 0#8] by decide]

/-- Settles O47: `finished_iff` gives the last chunk, `serialize_nil` its frame, and `container_roundTrip` the parse,
which stops at that chunk. -/
theorem finishedContainersEndWithTheTerminalChunk : Obligations.FinishedContainersEndWithTheTerminalChunk := by
  unfold Obligations.FinishedContainersEndWithTheTerminalChunk
  refine ⟨Laws.lettersOk_letterBytes _, fun cs => finished_iff, fun c cs h => finished_appendChunk h c, ?_, ?_⟩
  · intro cs h hser
    obtain ⟨front, rfl⟩ := finished_iff.1 h
    refine ⟨frames front, ?_⟩
    rw [serializeContainer_eq_ok hser]
    simp [frames, serialize_nil]
  · intro cs trailing h hp
    obtain ⟨front, rfl⟩ := finished_iff.1 h
    exact container_roundTrip hp (.inr ⟨_, List.getLast?_concat, rfl⟩)

end Sys2Proof.Machine
end

/-! ### Command sequences, and those of `IDENT`, `CRC32` and `ENCODE` (40_identifier.md to 42_encoder.md) -/
section

namespace Sys2Proof.Machine

open Sys2Proof.Safety

/-! #### What a sequence of accepted words does, apart from the transactions -/

/-- A state with other transactions to come. -/
def State.withInputs (ins : List Input) (s : State) : State := { s with inputs := ins }

/-- The state after an accepted word (R190). -/
def afterWord (s : State) (w : CmdWord) : State :=
  match decode w with
  | .ok i => guarded i (effectOf i) s
  | .error _ => illegalWord s

/-- The state after accepted words. -/
def afterWords (ws : List CmdWord) (s : State) : State := ws.foldl afterWord s

/-- The state after commands, each handed over as its word. -/
def afterCommands (is : List Instr) (s : State) : State := afterWords (is.map encode) s

/-- A command's effect does not depend on the transactions to come. -/
theorem effectOf_withInputs (i : Instr) (ins : List Input) (s : State) :
    effectOf i (s.withInputs ins) = (effectOf i s).withInputs ins := by
  cases i with
  | nop | crcStart | crcByte _ | crcEnd | decStart => rfl
  | idLoad _ => simp only [effectOf, idLoadEffect, apply_ite (State.withInputs ins)]; rfl
  | encStart _ => simp only [effectOf, encStartEffect, apply_ite (State.withInputs ins)]; rfl
  | encByte _ => simp only [effectOf, encByteEffect, apply_ite (State.withInputs ins)]; rfl
  | decByte _ => simp only [effectOf, decByteEffect, apply_ite (State.withInputs ins)]; rfl
  | decEnd => simp only [effectOf, decEndEffect, apply_ite (State.withInputs ins)]; rfl

/-- What an accepted word does, does not depend on the transactions to come. -/
theorem afterWord_withInputs (w : CmdWord) (ins : List Input) (s : State) :
    afterWord (s.withInputs ins) w = (afterWord s w).withInputs ins := by
  unfold afterWord
  split
  · simp only [guarded, effectOf_withInputs, apply_ite (State.withInputs ins)]; rfl
  · simp only [illegalWord, apply_ite (State.withInputs ins)]; rfl

theorem afterWords_withInputs (ws : List CmdWord) (ins : List Input) (s : State) :
    afterWords ws (s.withInputs ins) = (afterWords ws s).withInputs ins := by
  induction ws generalizing s with
  | nil => rfl
  | cons w ws ih => simp only [afterWords, List.foldl_cons, afterWord_withInputs] at ih ⊢; exact ih _

/-- One step on an accepted word. -/
theorem step_word {s : State} {w : CmdWord} {rest : List Input} (hi : s.inputs = .cmd w :: rest) :
    step s = .next ((afterWord s w).withInputs rest) := by
  have hstep : step s = acceptWord w (s.withInputs rest) := by
    rw [step, nextTransaction, hi]
    rfl
  rw [hstep, ← afterWord_withInputs, acceptWord, afterWord]
  cases decode w with
  | ok i => exact exec_eq_guarded i _
  | error e => rfl

/-- A run of accepted words. -/
theorem runFor_words (ws : List CmdWord) {s : State} {rest : List Input} (hi : s.inputs = ws.map Input.cmd ++ rest) :
    runFor ws.length s = .next ((afterWords ws s).withInputs rest) := by
  induction ws generalizing s with
  | nil =>
    obtain rfl : s.inputs = rest := hi
    rfl
  | cons w ws ih =>
    rw [List.length_cons, runFor_succ _ (step_word hi), ih rfl, afterWords_withInputs]
    rfl

/-- A run of commands, each handed over as its word. -/
theorem runFor_commands {is : List Instr} {s : State} {rest : List Input} (hi : s.inputs = handedOver is ++ rest) :
    runFor is.length s = .next ((afterCommands is s).withInputs rest) := by
  have hrun := runFor_words (is.map encode) (s := s) (rest := rest) (by rw [hi, handedOver, List.map_map]; rfl)
  rwa [List.length_map] at hrun

@[simp] theorem afterCommands_nil (s : State) : afterCommands [] s = s := rfl

theorem afterCommands_append (is js : List Instr) (s : State) :
    afterCommands (is ++ js) s = afterCommands js (afterCommands is s) := by
  simp [afterCommands, afterWords]

theorem afterCommands_cons (i : Instr) (is : List Instr) (s : State) :
    afterCommands (i :: is) s = afterCommands is (guarded i (effectOf i) s) := by
  simp [afterCommands, afterWords, afterWord]

/-- A command in sequence. -/
theorem afterCommands_cons_allowed {i : Instr} {s : State} (hf : s.fault = .noFault) (hm : allowedIn i s.mode = true)
    (is : List Instr) : afterCommands (i :: is) s = afterCommands is (effectOf i s) := by
  rw [afterCommands_cons, guarded_allowed hf hm]

/-- `NOP` commands anywhere in a sequence change nothing (R193). -/
theorem afterCommands_filter_nop (is : List Instr) (s : State) :
    afterCommands (is.filter (· ≠ .nop)) s = afterCommands is s := by
  induction is generalizing s with
  | nil => rfl
  | cons i is ih =>
    by_cases hnop : i = .nop
    · subst hnop
      have hkeep : guarded .nop (effectOf .nop) s = s := by
        have hexec := exec_nop s
        rw [exec_eq_guarded] at hexec
        exact Host.Outcome.next.inj hexec
      rw [afterCommands_cons, hkeep, ← ih s]
      simp
    · rw [List.filter_cons_of_pos (by simpa using hnop), afterCommands_cons, afterCommands_cons, ih]

/-! #### `IDENT` -/

/-- Settles O37: one step of `ID_LOAD`, by the two cases of the letter test; the flag pins by `flagPins_masked`. -/
theorem idLoadComputesTheParse : Obligations.IdLoadComputesTheParse := by
  unfold Obligations.IdLoadComputesTheParse
  intro s w rest hm hf hi
  refine ⟨_, step_handedOver hi (decode_encode _) hf (by rw [hm]; rfl), ?_⟩
  simp only [effectOf, idLoadEffect, parseIdentifier]
  split
  · simp [pinsOf, flagPins_masked, hm, hf]
  · simp [pinsOf, hm, hf]

/-! #### `CRC32` -/

/-- A stored count is saturated already. -/
theorem sat33_toNat_self (c : Count) : sat33 c.toNat = c := by
  have hc := c.isLt
  apply BitVec.eq_of_toNat_eq
  rw [sat33_toNat]
  omega

/-- Saturating on the way and at the end is saturating at the end. -/
theorem sat33_sat33_add (n m : Nat) : sat33 ((sat33 n).toNat + m) = sat33 (n + m) := by
  apply BitVec.eq_of_toNat_eq
  simp only [sat33_toNat]
  omega

/-- The bytes of a checksum operation. -/
theorem afterCommands_crcBytes (bs : List Byte) {s : State} (hf : s.fault = .noFault) (hm : s.mode = .crc) :
    afterCommands (bs.map .crcByte) s =
      { s with crc := bs.foldl crcStep s.crc, cnt := sat33 (s.cnt.toNat + bs.length) } := by
  induction bs generalizing s with
  | nil => simp [sat33_toNat_self]
  | cons b bs ih =>
    rw [List.map_cons, afterCommands_cons_allowed hf (by rw [hm]; rfl), effectOf,
      ih (s := crcByteEffect b s) hf hm]
    simp only [crcByteEffect, countByte, sat33_sat33_add, List.foldl_cons, List.length_cons, Nat.add_assoc,
      Nat.add_comm 1]

/-- The whole checksum operation. -/
theorem afterCommands_crc32Macro (bs : List Byte) {s : State} (hf : s.fault = .noFault) (hm : s.mode = .idle) :
    afterCommands (crc32Macro bs) s = { s with
      err := .ok, crc := crcFold bs, cnt := sat33 bs.length, pending := s.pending ++ [.done .ok (crc32 bs)] } := by
  rw [crc32Macro, afterCommands_cons_allowed hf (by rw [hm]; rfl), afterCommands_append,
    afterCommands_crcBytes bs (s := effectOf .crcStart s) hf rfl,
    afterCommands_cons_allowed (s := { effectOf .crcStart s with crc := _, cnt := _ }) hf rfl]
  simp [effectOf, crcStartEffect, crcEndEffect, reportDone, emit, crcFold, crc32, hm]

/-- Settles O38: without its `NOP` commands the sequence is the whole checksum operation. -/
theorem checksumRunComputesCrc32 : Obligations.ChecksumRunComputesCrc32 := by
  unfold Obligations.ChecksumRunComputesCrc32
  intro s bs is rest hm hf his hi
  rw [runFor_commands hi, ← afterCommands_filter_nop, his, afterCommands_crc32Macro bs hf hm, sat33_eq_min]
  rfl

/-! #### `ENCODE` -/

/-- A payload byte before the last, in every state whose count is below the length. -/
theorem encByteEffect_before_last {s : State} (b : Byte) (h : s.cnt.toNat + 1 < s.len.toNat) :
    encByteEffect b s = byteFed b s := by
  have hlen := s.len.isLt
  rw [encByteEffect, if_neg (by omega), countByte_of_lt (by omega)]
  rfl

/-- The last payload byte. -/
theorem encByteEffect_last {s : State} (b : Byte) (h : s.cnt.toNat + 1 = s.len.toNat) :
    encByteEffect b s = finishFrame (byteFed b s) := by
  have hlen := s.len.isLt
  rw [encByteEffect, if_pos h, countByte_of_lt (by omega)]
  rfl

/-- The state after `ENC_START L` with a payload to come (R143). -/
def encodeBegun (L : Word) (s : State) : State := { frameBegun L s with mode := .enc }

/-- The state in which a frame's first payload bytes are taken: `begun` is the state after `ENC_START`. -/
def encodeState (begun : State) (q : List Byte) : State :=
  { begun with
    crc := q.foldl crcStep begun.crc, cnt := BitVec.ofNat 33 q.length, pending := begun.pending ++ outs q }

/-- A further byte, fed to the encode. -/
theorem byteFed_encodeState (begun : State) (q : List Byte) (b : Byte) :
    byteFed b (encodeState begun q) = encodeState begun (q ++ [b]) := by
  have hcnt : BitVec.ofNat 33 q.length + 1#33 = BitVec.ofNat 33 (q.length + 1) := (BitVec.ofNat_add _ _).symm
  simp [byteFed, encodeState, outs, hcnt]

/-- Before any payload byte the encode is as `ENC_START` left it. -/
theorem encodeState_nil {begun : State} (hn : begun.cnt = 0) : encodeState begun [] = begun := by
  have hcnt : BitVec.ofNat 33 ([] : List Byte).length = begun.cnt := hn.symm
  simp only [encodeState, List.foldl_nil, hcnt, outs, List.map_nil, List.append_nil]

/-- The count of an encode in progress, as a number. -/
theorem encodeState_cnt_toNat (begun : State) {q : List Byte} (hq : q.length < 2 ^ 32) :
    (encodeState begun q).cnt.toNat = q.length := by
  rw [encodeState, BitVec.toNat_ofNat, Nat.mod_eq_of_lt (by omega)]

/-- The payload bytes of a frame in progress: none of them is the last. -/
theorem afterCommands_encBytes {begun : State} (hf : begun.fault = .noFault) (hm : begun.mode = .enc)
    (hn : begun.cnt = 0) {q : List Byte} (hq : q.length < begun.len.toNat) :
    afterCommands (q.map .encByte) begun = encodeState begun q := by
  induction q using List.reverseRecOn with
  | nil => exact (encodeState_nil hn).symm
  | append_singleton q b ih =>
    rw [List.length_append, List.length_singleton] at hq
    have hlen := begun.len.isLt
    have hmore : (encodeState begun q).cnt.toNat + 1 < (encodeState begun q).len.toNat := by
      rwa [encodeState_cnt_toNat begun (by omega)]
    rw [List.map_append, afterCommands_append, ih (by omega), List.map_singleton,
      afterCommands_cons_allowed (i := .encByte b) (s := encodeState begun q) hf (beq_of_eq hm), afterCommands_nil,
      effectOf, encByteEffect_before_last b hmore, byteFed_encodeState]

/-- An encode in progress, from its `ENC_START` on. -/
theorem afterCommands_encStart {s : State} (hf : s.fault = .noFault) (hm : s.mode = .idle) (hv : s.idv = true)
    {L : Word} {q : List Byte} (hq : q.length < L.toNat) :
    afterCommands (.encStart L :: q.map .encByte) s = encodeState (encodeBegun L s) q := by
  have hL : L ≠ 0 := by
    rintro rfl
    exact Nat.not_lt_zero _ hq
  rw [afterCommands_cons_allowed hf (by rw [hm]; rfl), effectOf, encStartEffect_nonempty hv hL]
  exact afterCommands_encBytes (begun := encodeBegun L s) hf rfl rfl hq

/-- Settles O40: `afterCommands_encStart`. -/
theorem encodeInProgress : Obligations.EncodeInProgress := by
  unfold Obligations.EncodeInProgress
  intro s L q rest hm hf hv hq hi
  have hrun := runFor_commands hi
  rw [afterCommands_encStart hf hm hv hq] at hrun
  simpa [State.withInputs, encodeState, encodeBegun, frameBegun, crcFold, outs] using hrun

/-- The whole frame, from its `ENC_START` on: the last byte, or `ENC_START` itself when there is none, finishes it. -/
theorem afterCommands_frame {s : State} (hf : s.fault = .noFault) (hm : s.mode = .idle) (hv : s.idv = true)
    {p : List Byte} (hp : p.length < 2 ^ 32) :
    afterCommands (.encStart (BitVec.ofNat 32 p.length) :: p.map .encByte) s =
      finishFrame (encodeState (frameBegun (BitVec.ofNat 32 p.length) s) p) := by
  rcases List.eq_nil_or_concat p with rfl | ⟨q, b, rfl⟩
  · rw [encodeState_nil rfl, List.map_nil, afterCommands_cons_allowed hf (by rw [hm]; rfl)]
    exact encStartEffect_empty hv
  · rw [List.concat_eq_append] at hp ⊢
    have hL := ofNat_length_toNat hp
    rw [List.length_append, List.length_singleton] at hp hL ⊢
    have hlast : (encodeState (encodeBegun (BitVec.ofNat 32 (q.length + 1)) s) q).cnt.toNat + 1
        = (BitVec.ofNat 32 (q.length + 1)).toNat := by
      rw [encodeState_cnt_toNat _ (by omega), hL]
    rw [List.map_append, ← List.cons_append, afterCommands_append, afterCommands_encStart hf hm hv (by omega),
      List.map_singleton,
      afterCommands_cons_allowed (i := .encByte b) (s := encodeState (encodeBegun _ s) q) hf rfl, afterCommands_nil,
      effectOf, encByteEffect_last b hlast, byteFed_encodeState]
    rw [finishFrame_eq, finishFrame_eq]
    rfl

/-- Settles O39: `ID_LOAD` of four letters, then the whole frame. -/
theorem encodeRunComputesSerialize : Obligations.EncodeRunComputesSerialize := by
  unfold Obligations.EncodeRunComputesSerialize
  intro s w p rest hm hf hw hp hi
  have hrun := runFor_commands hi
  have hload : effectOf (.idLoad w) s = reportDone .ok (flagsWord (idFlags w)) { s with idr := w, idv := true } :=
    if_pos hw
  rw [encodeMacro, afterCommands_cons_allowed hf (by rw [hm]; rfl), hload,
    afterCommands_frame (s := reportDone .ok (flagsWord (idFlags w)) { s with idr := w, idv := true }) hf hm rfl hp,
    finishFrame_eq] at hrun
  simpa [State.withInputs, encodeState, frameBegun, crcFold, crc32, serialize, outs, hm] using hrun

end Sys2Proof.Machine
end

/-! ### The `DECODE` command sequence (43_decoder.md, 70_reset_and_hazards.md) -/
section

namespace Sys2Proof.Machine

open Sys2Proof.Safety

/-! #### Numbers and slices, one byte at a time -/

theorem beNumber_snoc (s : List Byte) (b : Byte) : beNumber (s ++ [b]) = 256 * beNumber s + b.toNat := by
  simp [beNumber]

/-- `n` bytes make a number below `256^n`. -/
theorem beNumber_lt (s : List Byte) : beNumber s < 256 ^ s.length := by
  induction s using List.reverseRecOn with
  | nil => exact Nat.one_pos
  | append_singleton s b ih =>
    have hb := b.isLt
    rw [beNumber_snoc, List.length_append, List.length_singleton, pow_succ]
    omega

/-- A byte shifted into a big-endian field of at most four bytes (R167). -/
theorem shiftInByte_beNumber (s : List Byte) (b : Byte) :
    shiftInByte (BitVec.ofNat 32 (beNumber s)) b = BitVec.ofNat 32 (beNumber (s ++ [b])) := by
  rw [shiftInByte_eq, beNumber_snoc]
  apply BitVec.eq_of_toNat_eq
  simp only [BitVec.toNat_ofNat]
  omega

/-- `from_be32` of four bytes is their number (R7). -/
theorem fromBe32List_eq_beNumber {a : List Byte} (h : a.length = 4) :
    fromBe32List a = BitVec.ofNat 32 (beNumber a) := by
  obtain ⟨b0, b1, b2, b3, rfl⟩ := List.length_eq_four.1 h
  simp only [fromBe32List, fromBe32, beNumber, List.getD_cons_zero, List.getD_cons_succ, List.foldl_cons,
    List.foldl_nil]
  congr 1
  omega

/-- Four bytes fit in a word. -/
theorem sliceLen_lt (s : List Byte) : sliceLen s < 2 ^ 32 := by
  have hlt := beNumber_lt (s.take 4)
  have hpow : 256 ^ (s.take 4).length ≤ 256 ^ 4 := Nat.pow_le_pow_right (by decide) (List.length_take_le 4 s)
  exact Nat.lt_of_lt_of_le hlt hpow

/-- The byte view of `from_be32`, the bytes a shorter sequence lacks read as 0. -/
theorem be32_fromBe32List_getD (s : List Byte) :
    be32 (fromBe32List s) = [s.getD 0 0, s.getD 1 0, s.getD 2 0, s.getD 3 0] := be32_fromBe32 _ _ _ _

/-- The bytes of a word after one of them is written (R24). -/
theorem be32_setWordByte {i : Nat} (hi : i < 4) (b : Byte) (w : Word) :
    be32 (setWordByte i b w) = (be32 w).set i b := by
  simp only [be32, wordByte_setWordByte hi (show 0 < 4 by decide), wordByte_setWordByte hi (show 1 < 4 by decide),
    wordByte_setWordByte hi (show 2 < 4 by decide), wordByte_setWordByte hi (show 3 < 4 by decide)]
  interval_cases i <;> rfl

/-- Writing the next byte of an identifier that is not complete (R164). -/
theorem setWordByte_fromBe32List {x : List Byte} (h : x.length < 4) (b : Byte) :
    setWordByte x.length b (fromBe32List x) = fromBe32List (x ++ [b]) := by
  rw [← fromBe32List_be32 (setWordByte _ _ _), ← fromBe32List_be32 (fromBe32List (x ++ [b])), be32_setWordByte h,
    be32_fromBe32List_getD, be32_fromBe32List_getD]
  match x, h with
  | [], _ => rfl
  | [_], _ => rfl
  | [_, _], _ => rfl
  | [_, _, _], _ => rfl

/-- A slice of a sequence that has not reached it is empty. -/
theorem slice_eq_nil {s : List Byte} {lo : Nat} (h : s.length ≤ lo) (hi : Nat) : slice s lo hi = [] := by
  rw [slice, List.drop_eq_nil_of_le h, List.take_nil]

/-- One more byte is added to a slice exactly when its offset is in it. -/
theorem slice_snoc (s : List Byte) (b : Byte) (lo hi : Nat) :
    slice (s ++ [b]) lo hi = if lo ≤ s.length ∧ s.length < hi then slice s lo hi ++ [b] else slice s lo hi := by
  by_cases hlo : lo ≤ s.length
  · have hd : (s.drop lo).length = s.length - lo := List.length_drop
    rw [slice, slice, List.drop_append_of_le_length hlo]
    split
    · rw [List.take_of_length_le (by simp; omega), List.take_of_length_le (by omega)]
    · rw [List.take_append_of_le_length (by omega)]
  · rw [if_neg (by omega), slice_eq_nil (by simp; omega), slice_eq_nil (by omega)]

/-! #### The registers in the middle of a decode -/

/-- The state after `DEC_START` and the bytes of a slice: the table before the bridge (43_decoder.md, section 2). -/
def decodeState (s : State) (bs : List Byte) : State := { s with
  mode := .dec, idv := false
  cnt := sat33 bs.length
  len := BitVec.ofNat 32 (beNumber (bs.take 4))
  idr := fromBe32List (slice bs 4 8)
  crc := crcFold (slice bs 4 (8 + sliceLen bs))
  ckr := BitVec.ofNat 32 (beNumber (slice bs (8 + sliceLen bs) (12 + sliceLen bs)))
  pending := s.pending ++ (slice bs 8 (8 + sliceLen bs)).map Event.pay }

theorem decStartEffect_eq_decodeState (s : State) : decStartEffect s = decodeState s [] := by
  simp [decodeState, slice_eq_nil]
  rfl

theorem decodeState_cnt_toNat (s : State) (bs : List Byte) :
    (decodeState s bs).cnt.toNat = min bs.length (2 ^ 33 - 1) := sat33_toNat _

theorem decodeState_len_toNat (s : State) (bs : List Byte) : (decodeState s bs).len.toNat = sliceLen bs :=
  BitVec.toNat_ofNat _ _ |>.trans (Nat.mod_eq_of_lt (sliceLen_lt bs))

/-- The count after one more byte. -/
theorem countByte_sat33 (n : Nat) : countByte (sat33 n) = sat33 (n + 1) := sat33_sat33_add n 1

/-- `DEC_BYTE` takes the table of a slice to that of one byte more: each of the five regions of R164 is the offset of
that byte in one field of the slice, or behind them all. -/
theorem decByteEffect_decodeState (s : State) (bs : List Byte) (b : Byte) :
    decByteEffect b (decodeState s bs) = decodeState s (bs ++ [b]) := by
  have hk := decodeState_cnt_toNat s bs
  have hl := decodeState_len_toNat s bs
  have hL := sliceLen_lt bs
  have hn : (bs ++ [b]).length = bs.length + 1 := List.length_append
  by_cases h4 : bs.length < 4
  · have htake : (bs ++ [b]).take 4 = bs.take 4 ++ [b] := by
      rw [List.take_of_length_le (by omega), List.take_of_length_le (by omega)]
    rw [decByteEffect_length b (by omega)]
    simp (disch := omega) only [decodeState, countByte_sat33, htake, hn, shiftInByte_beNumber, slice_eq_nil]
  · have htake : (bs ++ [b]).take 4 = bs.take 4 := List.take_append_of_le_length (by omega)
    have hlen : sliceLen (bs ++ [b]) = sliceLen bs := by rw [sliceLen, sliceLen, htake]
    by_cases h8 : bs.length < 8
    · have hid : (slice bs 4 8).length = bs.length - 4 := by simp [slice]; omega
      have hcnt : (decodeState s bs).cnt.toNat - 4 = (slice bs 4 8).length := by omega
      rw [decByteEffect_identifier b (by omega) (by omega), hcnt]
      simp (disch := omega) only [decodeState, countByte_sat33, htake, hlen, hn, slice_snoc, if_pos, if_neg,
        setWordByte_fromBe32List, crcFold_snoc]
    by_cases hpay : bs.length < 8 + sliceLen bs
    · rw [decByteEffect_payload b (by omega) (by omega)]
      simp (disch := omega) only [decodeState, countByte_sat33, htake, hlen, hn, slice_snoc, if_pos, if_neg,
        crcFold_snoc, List.map_append, List.map_singleton, List.append_assoc]
    by_cases hck : bs.length < 12 + sliceLen bs
    · rw [decByteEffect_checksum b (by omega) (by omega)]
      simp (disch := omega) only [decodeState, countByte_sat33, htake, hlen, hn, slice_snoc, if_pos, if_neg,
        shiftInByte_beNumber]
    · rw [decByteEffect_beyond b (by omega)]
      simp (disch := omega) only [decodeState, countByte_sat33, htake, hlen, hn, slice_snoc, if_neg]

/-- The commands of a decode in progress. -/
theorem afterCommands_decStart {s : State} (hf : s.fault = .noFault) (hm : s.mode = .idle) (bs : List Byte) :
    afterCommands (.decStart :: bs.map .decByte) s = decodeState s bs := by
  rw [afterCommands_cons_allowed hf (by rw [hm]; rfl), effectOf, decStartEffect_eq_decodeState]
  induction bs using List.reverseRecOn with
  | nil => rfl
  | append_singleton bs b ih =>
    rw [List.map_append, afterCommands_append, ih, List.map_singleton,
      afterCommands_cons_allowed (i := .decByte b) (s := decodeState s bs) hf rfl, afterCommands_nil, effectOf,
      decByteEffect_decodeState]

/-- Settles O41: `afterCommands_decStart`. -/
theorem decodeInProgress : Obligations.DecodeInProgress := by
  unfold Obligations.DecodeInProgress
  intro s bs rest hm hf hi
  have hrun := runFor_commands hi
  rw [afterCommands_decStart hf hm, decodeState, sat33_eq_min] at hrun
  simpa [State.withInputs] using hrun

/-! #### The verdict -/

/-- Of a sequence with a length field, the length field. -/
theorem sliceLen_append {a : List Byte} (ha : a.length = 4) (rest : List Byte) :
    sliceLen (a ++ rest) = (fromBe32List a).toNat := by
  have hlt : beNumber a < 2 ^ 32 := by simpa [ha] using beNumber_lt a
  rw [sliceLen, List.take_left' ha, fromBe32List_eq_beNumber ha, BitVec.toNat_ofNat, Nat.mod_eq_of_lt hlt]

/-- How a decode of a slice that `parse` refuses ends. -/
def DecodeRefused (s : State) (bs : List Byte) : Prop :=
  ∃ c, parse bs = .error c ∧ c ≠ .ok ∧ decEndEffect (decodeState s bs) = raiseFailure c (decodeState s bs)

/-- How a decode of a slice that `parse` accepts ends. -/
def DecodeAccepted (s : State) (bs : List Byte) : Prop :=
  ∃ id p, parse bs = .ok (id, p) ∧ (decodeState s bs).idr = id ∧ (decodeState s bs).len = BitVec.ofNat 32 p.length
    ∧ (decodeState s bs).pending = s.pending ++ p.map Event.pay
    ∧ decEndEffect (decodeState s bs) =
      { reportDone .ok (decodeState s bs).len { decodeState s bs with idv := true } with mode := .idle }

section Verdict

variable {a b q k : List Byte} (ha : a.length = 4) (hb : b.length = 4) (hk : k.length = 4)
include ha hb hk

/-- The registers at the end of a decode whose slice has the length its length field says. -/
theorem decodeState_fields (hL : q.length = (fromBe32List a).toNat) (s : State) :
    decodeState s (a ++ (b ++ (q ++ k))) = { s with
      mode := .dec, idv := false
      cnt := sat33 (q.length + 12), len := fromBe32List a, idr := fromBe32List b, crc := crcFold (b ++ q)
      ckr := fromBe32List k, pending := s.pending ++ q.map Event.pay } := by
  obtain ⟨-, hsb, hsq, hsk⟩ := slice_fields (q := q) ha hb hk
  have hfed : slice (a ++ (b ++ (q ++ k))) 4 (8 + q.length) = b ++ q := by
    rw [← List.append_assoc b]
    exact slice_append_mid ha (by simp; omega)
  have hlen : (a ++ (b ++ (q ++ k))).length = q.length + 12 := by simp; omega
  rw [decodeState, sliceLen_append ha, ← hL, hsb, hsq, hsk, hfed, hlen, List.take_left' ha,
    ← fromBe32List_eq_beNumber ha, ← fromBe32List_eq_beNumber hk]

/-- A slice of another length than its length field says. -/
theorem decode_lengthMismatch (hL : q.length ≠ (fromBe32List a).toNat) (s : State) :
    DecodeRefused s (a ++ (b ++ (q ++ k))) := by
  have hn : (a ++ (b ++ (q ++ k))).length = q.length + 12 := by simp; omega
  have hcnt := decodeState_cnt_toNat s (a ++ (b ++ (q ++ k)))
  have hlen := decodeState_len_toNat s (a ++ (b ++ (q ++ k)))
  have hlt := (fromBe32List a).isLt
  rw [hn] at hcnt
  rw [sliceLen_append ha] at hlen
  refine ⟨.lengthMismatch, ?_, by decide, decEndEffect_lengthMismatch (by omega) (by omega)⟩
  rw [parse_fields ha hb hk, if_pos hL]

/-- A slice of the right length: the letter test and the checksum test of R168 are those of R160. -/
theorem decode_wholeFrame (hL : q.length = (fromBe32List a).toNat) (s : State) :
    DecodeRefused s (a ++ (b ++ (q ++ k))) ∨ DecodeAccepted s (a ++ (b ++ (q ++ k))) := by
  have hwhole : (sat33 (q.length + 12)).toNat = (fromBe32List a).toNat + 12 := by
    have hlt := (fromBe32List a).isLt
    rw [sat33_toNat]
    omega
  rw [DecodeRefused, DecodeAccepted, decodeState_fields ha hb hk hL, parse_fields ha hb hk, if_neg (not_not.2 hL)]
  cases hid : lettersOk (fromBe32List b) with
  | false =>
    rw [if_pos Bool.false_ne_true]
    exact .inl ⟨_, rfl, by decide, decEndEffect_invalidIdentifier hwhole hid⟩
  | true =>
    rw [if_neg (not_not.2 rfl)]
    by_cases hck : fromBe32List k = crc32 (b ++ q)
    · rw [if_neg (not_not.2 hck)]
      refine .inr ⟨_, _, rfl, rfl, ?_, rfl, decEndEffect_ok hwhole hid hck⟩
      rw [hL, BitVec.ofNat_toNat, BitVec.setWidth_eq]
    · rw [if_pos hck]
      exact .inl ⟨_, rfl, by decide, decEndEffect_checksumMismatch hwhole hid hck⟩

end Verdict

/-- `DEC_END` gives the verdict of `parse`: each test of R168 over the registers is that of R160 over the slice. -/
theorem decEndEffect_decodeState (s : State) (bs : List Byte) : DecodeRefused s bs ∨ DecodeAccepted s bs := by
  by_cases hshort : bs.length < 12
  · have hcnt := decodeState_cnt_toNat s bs
    exact .inl ⟨.truncated, parse_truncated hshort, by decide, decEndEffect_truncated (by omega)⟩
  obtain ⟨a, b, q, k, ha, hb, hk, rfl⟩ := exists_fields (Nat.le_of_not_lt hshort)
  by_cases hL : q.length = (fromBe32List a).toNat
  · exact decode_wholeFrame ha hb hk hL s
  · exact .inl (decode_lengthMismatch ha hb hk hL s)

/-- What the host makes of the events of a decode: the payload if the code is `OK` (R236). -/
theorem decodeObservation_ok (p : List Byte) (v : Word) :
    decodeObservation (p.map Event.pay ++ [.done .ok v]) = some (.ok, some p) := by
  simp only [decodeObservation, List.getLast?_concat, List.filterMap_append, List.filterMap_map]
  change some (ResultCode.ok, some (p.filterMap some ++ [])) = some (ResultCode.ok, some p)
  rw [List.filterMap_some, List.append_nil]

/-- On a failure the host drops the payload bytes (R236). -/
theorem decodeObservation_failure {c : ResultCode} (hc : c ≠ .ok) (q : List Byte) (v : Word) :
    decodeObservation (q.map Event.pay ++ [.done c v]) = some (c, none) := by
  cases c <;> simp_all [decodeObservation]

/-- Settles O42: the run is `DEC_END` on the table of the slice, and `decEndEffect_decodeState` its verdict. -/
theorem decodeRunComputesParse : Obligations.DecodeRunComputesParse := by
  unfold Obligations.DecodeRunComputesParse
  intro s bs rest hm hf hi
  have hrun := runFor_commands hi
  have hlen : (decodeMacro bs).length = bs.length + 2 := by simp [decodeMacro]
  have hend : afterCommands (decodeMacro bs) s = decEndEffect (decodeState s bs) := by
    rw [decodeMacro, ← List.cons_append, afterCommands_append, afterCommands_decStart hf hm,
      afterCommands_cons_allowed (i := .decEnd) (s := decodeState s bs) hf rfl]
    rfl
  rw [hend, hlen] at hrun
  rcases decEndEffect_decodeState s bs with ⟨c, hparse, hc, hverdict⟩ | ⟨id, p, hparse, hidr, hL, hpay, hverdict⟩
    <;> rw [hverdict] at hrun
  · refine ⟨_, (slice bs 8 (8 + sliceLen bs)).map Event.pay ++ [.done c 0], hrun, rfl, rfl, hf, ?_, ?_, ?_⟩
    · exact List.append_assoc _ _ _
    · rw [decodeObservation_failure hc, parseObservation, hparse]
    · rw [hparse]
      exact ⟨⟨_, rfl⟩, rfl, rfl⟩
  · refine ⟨_, p.map Event.pay ++ [.done .ok (BitVec.ofNat 32 p.length)], hrun, rfl, rfl, hf, ?_, ?_, ?_⟩
    · rw [← hL, ← List.append_assoc, ← hpay]
      rfl
    · rw [decodeObservation_ok, parseObservation, hparse]
    · rw [hparse]
      exact ⟨rfl, rfl, hidr, rfl⟩

end Sys2Proof.Machine
end

/-! ### Independence of operations (20_memory.md, section 5) -/
section

namespace Sys2Proof.Machine

open Sys2Proof.Safety

/-- Two states that no word can tell apart: they agree on `MODE`, `FAULT` and the Identifier, and on the registers that
the operation in progress reads. -/
structure Agree (s t : State) : Prop where
  mode : t.mode = s.mode
  fault : t.fault = s.fault
  idr : t.idr = s.idr
  idv : t.idv = s.idv
  /-- Every operation reads the running checksum and the count. -/
  running : s.mode ≠ .idle → t.crc = s.crc ∧ t.cnt = s.cnt
  /-- The two frame operations read the length. -/
  framing : s.mode = .enc ∨ s.mode = .dec → t.len = s.len
  /-- A decode reads the checksum it has received. -/
  decoding : s.mode = .dec → t.ckr = s.ckr

/-- From `s` to `s'` and from `t` to `t'` the same events are emitted, and the new states agree. -/
def AnswerAlike (s t s' t' : State) : Prop :=
  ∃ es, s'.pending = s.pending ++ es ∧ t'.pending = t.pending ++ es ∧ Agree s' t'

/-- Nothing emitted. -/
theorem answerAlike_of_no_events {s t s' t' : State} (hs : s'.pending = s.pending) (ht : t'.pending = t.pending)
    (h : Agree s' t') : AnswerAlike s t s' t' :=
  ⟨[], by rw [hs, List.append_nil], by rw [ht, List.append_nil], h⟩

/-- Between operations only the Identifier counts. -/
theorem agree_of_idle {s t : State} (hs : s.mode = .idle) (ht : t.mode = .idle) (hf : t.fault = s.fault)
    (hi : t.idr = s.idr) (hv : t.idv = s.idv) : Agree s t :=
  ⟨ht.trans hs.symm, hf, hi, hv, fun hne => absurd hs hne, by simp [hs], by simp [hs]⟩

/-- States with the same registers but for `ERR` agree in every mode. -/
theorem agree_of_registers_eq {s t : State} (hm : t.mode = s.mode) (hf : t.fault = s.fault) (hi : t.idr = s.idr)
    (hv : t.idv = s.idv) (hc : t.crc = s.crc) (hn : t.cnt = s.cnt) (hl : t.len = s.len) (hk : t.ckr = s.ckr) :
    Agree s t := ⟨hm, hf, hi, hv, fun _ => ⟨hc, hn⟩, fun _ => hl, fun _ => hk⟩

section Alike

variable {s t : State}

/-- A failure is the same from states that agree (R204). -/
theorem raiseFailure_alike (h : Agree s t) (c : ResultCode) :
    AnswerAlike s t (raiseFailure c s) (raiseFailure c t) :=
  ⟨[.done c 0], rfl, rfl, agree_of_idle rfl rfl h.fault h.idr h.idv⟩

/-- The end of a frame depends on the checksum alone, besides the events before it. -/
theorem finishFrame_alike {s' t' : State} {es : List Event} (hs : s'.pending = s.pending ++ es)
    (ht : t'.pending = t.pending ++ es) (hc : t'.crc = s'.crc) (hf : t'.fault = s'.fault) (hi : t'.idr = s'.idr)
    (hv : t'.idv = s'.idv) : AnswerAlike s t (finishFrame s') (finishFrame t') := by
  refine ⟨es ++ (outs (be32 (crcFinal s'.crc)) ++ [.done .ok (crcFinal s'.crc)]), ?_, ?_,
    agree_of_idle rfl rfl hf hi hv⟩
  · rw [finishFrame_eq, hs, List.append_assoc]
  · rw [finishFrame_eq, ht, hc, List.append_assoc]

/-- R105 reads its argument only. -/
theorem idLoadEffect_alike (h : Agree s t) (hm : s.mode = .idle) (w : Word) :
    AnswerAlike s t (idLoadEffect w s) (idLoadEffect w t) := by
  have hmt := h.mode.trans hm
  unfold idLoadEffect
  split
  · exact ⟨[.done .ok (flagsWord (idFlags w))], rfl, rfl, agree_of_idle hm hmt h.fault rfl rfl⟩
  · exact ⟨[.done .invalidByte 0], rfl, rfl, agree_of_idle hm hmt h.fault rfl rfl⟩

/-- R143 reads the Identifier only. -/
theorem encStartEffect_alike (h : Agree s t) (L : Word) :
    AnswerAlike s t (encStartEffect L s) (encStartEffect L t) := by
  have hcrc : (frameBegun L t).crc = (frameBegun L s).crc := by rw [frameBegun, frameBegun, h.idr]
  have hpending : (frameBegun L t).pending = t.pending ++ outs (be32 L ++ be32 s.idr) := by rw [frameBegun, h.idr]
  cases hv : s.idv with
  | false =>
    rw [encStartEffect_noIdentifier L hv, encStartEffect_noIdentifier L (h.idv.trans hv)]
    exact raiseFailure_alike h _
  | true =>
    have hvt := h.idv.trans hv
    by_cases hL : L = 0
    · subst hL
      rw [encStartEffect_empty hv, encStartEffect_empty hvt]
      exact finishFrame_alike rfl hpending hcrc h.fault h.idr h.idv
    · rw [encStartEffect_nonempty hv hL, encStartEffect_nonempty hvt hL]
      exact ⟨_, rfl, hpending, rfl, h.fault, h.idr, h.idv, fun _ => ⟨hcrc, rfl⟩, fun _ => rfl, nofun⟩

/-- R145 reads the checksum, the count and the length. -/
theorem encByteEffect_alike (h : Agree s t) (hm : s.mode = .enc) (b : Byte) :
    AnswerAlike s t (encByteEffect b s) (encByteEffect b t) := by
  obtain ⟨hcrc, hcnt⟩ := h.running (by simp [hm])
  have hlen := h.framing (.inl hm)
  simp only [encByteEffect, hcrc, hcnt, hlen]
  split
  · exact finishFrame_alike (es := [.out b]) rfl rfl rfl h.fault h.idr h.idv
  · exact ⟨[.out b], rfl, rfl, h.mode, h.fault, h.idr, h.idv, fun _ => ⟨rfl, rfl⟩, fun _ => rfl, h.decoding⟩

/-- R164 reads the count, and the register its byte goes to. -/
theorem decByteEffect_alike (h : Agree s t) (hm : s.mode = .dec) (b : Byte) :
    AnswerAlike s t (decByteEffect b s) (decByteEffect b t) := by
  obtain ⟨hcrc, hcnt⟩ := h.running (by simp [hm])
  have hlen := h.framing (.inr hm)
  have hckr := h.decoding hm
  simp only [decByteEffect, hcrc, hcnt, hlen, hckr, h.idr]
  split_ifs
  · exact answerAlike_of_no_events rfl rfl (agree_of_registers_eq h.mode h.fault rfl h.idv rfl rfl rfl rfl)
  · exact answerAlike_of_no_events rfl rfl (agree_of_registers_eq h.mode h.fault rfl h.idv rfl rfl rfl rfl)
  · exact ⟨[.pay b], rfl, rfl, agree_of_registers_eq h.mode h.fault rfl h.idv rfl rfl rfl rfl⟩
  · exact answerAlike_of_no_events rfl rfl (agree_of_registers_eq h.mode h.fault rfl h.idv rfl rfl rfl rfl)
  · exact answerAlike_of_no_events rfl rfl (agree_of_registers_eq h.mode h.fault rfl h.idv rfl rfl rfl rfl)

/-- R168 reads every register of the decode, and ends it. -/
theorem decEndEffect_alike (h : Agree s t) (hm : s.mode = .dec) :
    AnswerAlike s t (decEndEffect s) (decEndEffect t) := by
  obtain ⟨hcrc, hcnt⟩ := h.running (by simp [hm])
  have hlen := h.framing (.inr hm)
  simp only [decEndEffect, hcrc, hcnt, hlen, h.decoding hm, h.idr]
  split
  · exact raiseFailure_alike h _
  split
  · exact raiseFailure_alike h _
  split
  · exact raiseFailure_alike h _
  split
  · exact raiseFailure_alike h _
  · exact ⟨[.done .ok s.len], rfl, rfl, agree_of_idle rfl rfl h.fault rfl rfl⟩

/-- Every command in sequence answers alike from states that agree. -/
theorem effectOf_alike {i : Instr} (h : Agree s t) (hm : allowedIn i s.mode = true) :
    AnswerAlike s t (effectOf i s) (effectOf i t) := by
  cases i with
  | nop => exact answerAlike_of_no_events rfl rfl h
  | idLoad w => exact idLoadEffect_alike h (eq_of_beq hm) w
  | crcStart =>
    exact answerAlike_of_no_events rfl rfl
      ⟨rfl, h.fault, h.idr, h.idv, fun _ => ⟨rfl, rfl⟩, by simp [effectOf, crcStartEffect], nofun⟩
  | crcByte b =>
    obtain ⟨hcrc, hcnt⟩ := h.running (by simp [eq_of_beq hm])
    refine answerAlike_of_no_events rfl rfl ⟨h.mode, h.fault, h.idr, h.idv, fun _ => ?_, h.framing, h.decoding⟩
    simp only [effectOf, crcByteEffect, hcrc, hcnt, and_self]
  | crcEnd =>
    obtain ⟨hcrc, -⟩ := h.running (by simp [eq_of_beq hm])
    refine ⟨[.done .ok (crcFinal s.crc)], rfl, ?_, agree_of_idle rfl rfl h.fault h.idr h.idv⟩
    rw [← hcrc]
    rfl
  | encStart L => exact encStartEffect_alike h L
  | encByte b => exact encByteEffect_alike h (eq_of_beq hm) b
  | decStart =>
    exact answerAlike_of_no_events rfl rfl (agree_of_registers_eq rfl h.fault rfl rfl rfl rfl rfl rfl)
  | decByte b => exact decByteEffect_alike h (eq_of_beq hm) b
  | decEnd => exact decEndEffect_alike h (eq_of_beq hm)

/-- A fault is taken alike, and nothing is emitted (R192). -/
theorem takeFault_alike (h : Agree s t) (f : FaultCode) : AnswerAlike s t (takeFault f s) (takeFault f t) :=
  answerAlike_of_no_events rfl rfl ⟨h.mode, rfl, h.idr, h.idv, h.running, h.framing, h.decoding⟩

/-- Every word, of any kind, is answered alike by states that agree: the tests of R190 read `MODE` and `FAULT` only. -/
theorem afterWord_alike (h : Agree s t) (w : CmdWord) : AnswerAlike s t (afterWord s w) (afterWord t w) := by
  have hsame : AnswerAlike s t s t := answerAlike_of_no_events rfl rfl h
  unfold afterWord
  split
  · simp only [guarded, h.fault, h.mode]
    split_ifs with hf hm
    · exact hsame
    · exact effectOf_alike h hm
    · exact takeFault_alike h .protocol
  · simp only [illegalWord, h.fault]
    split_ifs
    · exact hsame
    · exact takeFault_alike h .illegalCmd

/-- Any words are answered alike by states that agree. -/
theorem afterWords_alike (h : Agree s t) (ws : List CmdWord) :
    AnswerAlike s t (afterWords ws s) (afterWords ws t) := by
  induction ws generalizing s t with
  | nil => exact answerAlike_of_no_events rfl rfl h
  | cons w ws ih =>
    obtain ⟨es, hs, ht, hword⟩ := afterWord_alike h w
    obtain ⟨es', hs', ht', hwords⟩ := ih hword
    rw [hs, List.append_assoc] at hs'
    rw [ht, List.append_assoc] at ht'
    exact ⟨es ++ es', hs', ht', hwords⟩

end Alike

/-- Settles O43: two idle states with one Identifier agree (`agree_of_idle`), and so answer any words alike. -/
theorem operationsAreIndependent : Obligations.OperationsAreIndependent := by
  unfold Obligations.OperationsAreIndependent
  intro ws s₁ s₂ hm₁ hm₂ hf₁ hf₂ hidr hidv hi₁ hi₂
  have hagree : Agree s₁ s₂ := agree_of_idle hm₁ hm₂ (hf₂.trans hf₁.symm) hidr.symm hidv.symm
  obtain ⟨es, hp₁, hp₂, hend⟩ := afterWords_alike hagree ws
  have hrun₁ := runFor_words (rest := []) ws (by rw [hi₁, List.append_nil])
  have hrun₂ := runFor_words (rest := []) ws (by rw [hi₂, List.append_nil])
  exact ⟨_, _, es, hrun₁, hrun₂, hp₁, hp₂, hend.mode.symm, hend.fault.symm, hend.idr.symm, hend.idv.symm⟩

end Sys2Proof.Machine
end
